-- ==== Sys2Proof/Word.lean ====
section
/-!
DEFINITION. The word types of the block (00_scope.md R8, 10_state.md R20, 30_encoding.md R71). Every value is an
unsigned integer, so plain bit vectors serve.
-/

namespace Sys2Proof

/-- A byte of memory, a general register, a timer, an `nn` immediate: 8 bits (10_state.md R22, R31). -/
abbrev Byte := BitVec 8

/-- An instruction word, PC, I, a stack entry: 16 bits (30_encoding.md R70, 10_state.md R26, R28, R29). -/
abbrev Word := BitVec 16

/-- A register-index field `x` or `y`: 4 bits, so always one of the sixteen registers (10_state.md R23). -/
abbrev Reg := BitVec 4

/-- The row-count field `n`: 4 bits (30_encoding.md R73). -/
abbrev Nibble := BitVec 4

/-- An address field `nnn`: 12 bits (30_encoding.md R73). -/
abbrev Addr := BitVec 12

/-- VF, the flag register: general register 15 (10_state.md R25). -/
abbrev flagReg : Reg := 0xF#4

end Sys2Proof
end

