-- ==== Sys2Proof/Syntax.lean ====
section
/-!
DEFINITION. The instruction set as syntax: one constructor per row of 30_encoding.md R93 (spec/opcode_table.json), with the
operands its format gives it (30_encoding.md R72, R73).
-/

namespace Sys2Proof

/-- The 34 instructions, in the table's order (30_encoding.md R93). -/
inductive Instr where
  /-- `00E0` clear-display (44_display.md R190) -/
  | cls
  /-- `00EE` return (41_control_flow.md R121) -/
  | ret
  /-- `1nnn` jump (41_control_flow.md R122) -/
  | jp (nnn : Addr)
  /-- `2nnn` call (41_control_flow.md R123) -/
  | call (nnn : Addr)
  /-- `3xnn` skip-if-equal, register and immediate (41_control_flow.md R124) -/
  | seImm (x : Reg) (nn : Byte)
  /-- `4xnn` skip-if-not-equal, register and immediate (41_control_flow.md R125) -/
  | sneImm (x : Reg) (nn : Byte)
  /-- `5xy0` skip-if-equal, register and register (41_control_flow.md R126) -/
  | seReg (x y : Reg)
  /-- `6xnn` load immediate (42_register_alu.md R142) -/
  | ldImm (x : Reg) (nn : Byte)
  /-- `7xnn` add immediate (42_register_alu.md R143) -/
  | addImm (x : Reg) (nn : Byte)
  /-- `8xy0` assign (42_register_alu.md R144) -/
  | ldReg (x y : Reg)
  /-- `8xy1` OR (42_register_alu.md R145) -/
  | orReg (x y : Reg)
  /-- `8xy2` AND (42_register_alu.md R146) -/
  | andReg (x y : Reg)
  /-- `8xy3` XOR (42_register_alu.md R147) -/
  | xorReg (x y : Reg)
  /-- `8xy4` add-with-carry (42_register_alu.md R148) -/
  | addReg (x y : Reg)
  /-- `8xy5` subtract-with-borrow (42_register_alu.md R149) -/
  | subReg (x y : Reg)
  /-- `8xy6` shift-right (42_register_alu.md R150) -/
  | shrReg (x y : Reg)
  /-- `8xy7` subtract-reverse-with-borrow (42_register_alu.md R151) -/
  | subnReg (x y : Reg)
  /-- `8xyE` shift-left (42_register_alu.md R152) -/
  | shlReg (x y : Reg)
  /-- `9xy0` skip-if-not-equal, register and register (41_control_flow.md R127) -/
  | sneReg (x y : Reg)
  /-- `Annn` set index (43_index_memory.md R170) -/
  | ldI (nnn : Addr)
  /-- `Bnnn` jump with offset (41_control_flow.md R128) -/
  | jpV0 (nnn : Addr)
  /-- `Cxnn` random AND (42_register_alu.md R153) -/
  | rnd (x : Reg) (nn : Byte)
  /-- `Dxyn` draw sprite (44_display.md R191) -/
  | drw (x y : Reg) (n : Nibble)
  /-- `Ex9E` skip-if-key-pressed (45_timers_input.md R200) -/
  | skp (x : Reg)
  /-- `ExA1` skip-if-key-not-pressed (45_timers_input.md R201) -/
  | sknp (x : Reg)
  /-- `Fx07` read delay timer (45_timers_input.md R202) -/
  | ldVxDt (x : Reg)
  /-- `Fx0A` block-for-key-release (45_timers_input.md R205) -/
  | ldVxK (x : Reg)
  /-- `Fx15` write delay timer (45_timers_input.md R203) -/
  | ldDtVx (x : Reg)
  /-- `Fx18` write sound timer (45_timers_input.md R204) -/
  | ldStVx (x : Reg)
  /-- `Fx1E` add-to-index (43_index_memory.md R172) -/
  | addI (x : Reg)
  /-- `Fx29` font-address (43_index_memory.md R173) -/
  | ldF (x : Reg)
  /-- `Fx33` store-digits (43_index_memory.md R174) -/
  | ldB (x : Reg)
  /-- `Fx55` register-dump (43_index_memory.md R175) -/
  | ldMemVx (x : Reg)
  /-- `Fx65` register-load (43_index_memory.md R176) -/
  | ldVxMem (x : Reg)
deriving DecidableEq, Repr

/-- An instruction's mnemonic, as spec/opcode_table.json spells it (30_encoding.md R97: not normative). -/
def Instr.mnemonic : Instr → String
  | .cls => "CLS"
  | .ret => "RET"
  | .jp _ => "JP_nnn"
  | .call _ => "CALL_nnn"
  | .seImm _ _ => "SE_Vx__nn"
  | .sneImm _ _ => "SNE_Vx__nn"
  | .seReg _ _ => "SE_Vx__Vy"
  | .ldImm _ _ => "LD_Vx__nn"
  | .addImm _ _ => "ADD_Vx__nn"
  | .ldReg _ _ => "LD_Vx__Vy"
  | .orReg _ _ => "OR_Vx__Vy"
  | .andReg _ _ => "AND_Vx__Vy"
  | .xorReg _ _ => "XOR_Vx__Vy"
  | .addReg _ _ => "ADD_Vx__Vy"
  | .subReg _ _ => "SUB_Vx__Vy"
  | .shrReg _ _ => "SHR_Vx__Vy"
  | .subnReg _ _ => "SUBN_Vx__Vy"
  | .shlReg _ _ => "SHL_Vx__Vy"
  | .sneReg _ _ => "SNE_Vx__Vy"
  | .ldI _ => "LD_I__nnn"
  | .jpV0 _ => "JP_V0__nnn"
  | .rnd _ _ => "RND_Vx__nn"
  | .drw _ _ _ => "DRW_Vx__Vy__n"
  | .skp _ => "SKP_Vx"
  | .sknp _ => "SKNP_Vx"
  | .ldVxDt _ => "LD_Vx__DT"
  | .ldVxK _ => "LD_Vx__K"
  | .ldDtVx _ => "LD_DT__Vx"
  | .ldStVx _ => "LD_ST__Vx"
  | .addI _ => "ADD_I__Vx"
  | .ldF _ => "LD_F__Vx"
  | .ldB _ => "LD_B__Vx"
  | .ldMemVx _ => "LD__I___Vx"
  | .ldVxMem _ => "LD_Vx___I"

end Sys2Proof
end

