-- ==== Sys2Proof/Config.lean ====
section
/-!
DEFINITION. The implementation parameters of 00_scope.md R7: the constants the spec fixes, the open parameters as one
`Config` (carried by State, log 1), and the free value `RandomByte`.
-/

namespace Sys2Proof

/-- `MEM_SIZE` (00_scope.md R7). -/
@[simp] abbrev memSize : Nat := 0x1000
/-- `PROG_BASE` (00_scope.md R7). -/
@[simp] abbrev progBase : Nat := 0x200
/-- `PROG_MAX` = 4096 − 0x200 (00_scope.md R7, 70_reset_and_hazards.md R251). -/
@[simp] abbrev progMax : Nat := 3584
/-- `FONT_BASE` (00_scope.md R7). -/
@[simp] abbrev fontBase : Nat := 0x050
/-- The font's length: 16 glyphs of 5 bytes (00_scope.md R7). -/
@[simp] abbrev fontSize : Nat := 80
/-- `TIMER_RATE`, the divisor in `speed/60` (00_scope.md R7). -/
@[simp] abbrev timerRate : Nat := 60

/-- `VF_DEST_ORDER` (42_register_alu.md R141, D5): which of the two writes comes last when both go to VF. -/
inductive VfDestOrder where
  | flagLast
  | resultLast
deriving DecidableEq, Repr, Inhabited

/-- `DRAW_VF_NO_COLLISION` (44_display.md R191, D6): VF after a draw that clears no cell. -/
inductive DrawVfNoCollision where
  | zero
  | unchanged
deriving DecidableEq, Repr, Inhabited

/-- `FAULT_PC_REPORT` (60_exceptions.md R227, D12): the pc a fault record holds. -/
inductive FaultPcReport where
  | instrAddr
  | nextPc
deriving DecidableEq, Repr, Inhabited

/-- The 80 bytes of `FONT` (00_scope.md R7). -/
abbrev Font := Vector Byte 80

/-- The open parameters of 00_scope.md R7. `stackLimit = none` is `unbounded`. -/
structure Config where
  speed : Nat
  font : Font
  stackLimit : Option Nat
  loadstoreIndexIncrement : Bool
  vfDestOrder : VfDestOrder
  drawVfNoCollision : DrawVfNoCollision
  clearSetsDirty : Bool
  faultPcReport : FaultPcReport
deriving DecidableEq, Repr, Inhabited

/-- The default `FONT` table of 20_memory.md R58, glyph 0 first (PRESUMED by the spec, D2; log 4). -/
def defaultFont : Font :=
  #v[0xF0, 0x90, 0x90, 0x90, 0xF0,  0x20, 0x60, 0x20, 0x20, 0x70,
     0xF0, 0x10, 0xF0, 0x80, 0xF0,  0xF0, 0x10, 0xF0, 0x10, 0xF0,
     0x90, 0x90, 0xF0, 0x10, 0x10,  0xF0, 0x80, 0xF0, 0x10, 0xF0,
     0xF0, 0x80, 0xF0, 0x90, 0xF0,  0xF0, 0x10, 0x20, 0x40, 0x40,
     0xF0, 0x90, 0xF0, 0x90, 0xF0,  0xF0, 0x90, 0xF0, 0x10, 0xF0,
     0xF0, 0x90, 0xF0, 0x90, 0x90,  0xE0, 0x90, 0xE0, 0x90, 0xE0,
     0xF0, 0x80, 0x80, 0x80, 0xF0,  0xE0, 0x90, 0x90, 0x90, 0xE0,
     0xF0, 0x80, 0xF0, 0x80, 0xF0,  0xF0, 0x80, 0xF0, 0x80, 0x80]

/-- The default of every parameter (00_scope.md R7). The spec gives `speed` no default: 700 is its worked case
(40_execution_cycle.md R102) and the model's DESIGN CHOICE for `State.reset` (log 2, unsafe). -/
def Config.default : Config where
  speed := 700
  font := defaultFont
  stackLimit := some 16
  loadstoreIndexIncrement := false
  vfDestOrder := .flagLast
  drawVfNoCollision := .zero
  clearSetsDirty := false
  faultPcReport := .instrAddr

/-- The free value `RandomByte` (00_scope.md R7, 42_register_alu.md R153, D16): the k-th draw, under no law. It has no
body, so nothing can be proved of a draw's value (log 5). -/
opaque Config.randomByte : Nat → Byte

end Sys2Proof
end

