-- ==== Sys2Proof/Machine/State.lean ====
section
/-!
DEFINITION. The machine's state (10_state.md R20, R21), its faults (60_exceptions.md R220 to R227) and refusals, and the state
right after construction (70_reset_and_hazards.md R250).
-/

namespace Sys2Proof.Machine

/-- The execution faults, each carrying its record: instruction word, reported pc and info (60_exceptions.md R227). All are
terminal (60_exceptions.md R220). `kind`, `code`, `word`, `pc` and `info` are read from a record in Machine/Faults.lean. -/
inductive Fault where
  /-- Code 1. Raised by decode, for a word outside the opcode map (60_exceptions.md R224). Safe: the spec names the fault,
  and checking every masked bit (D8) only adds stops (log 15). -/
  | unimplemented (word pc : Word)
  /-- Code 2. Raised by 00EE with an empty stack (60_exceptions.md R221). Safe: the spec's own fault. -/
  | stackUnderflow (word pc : Word)
  /-- Code 3. Raised by 2nnn with a full stack (60_exceptions.md R222). Safe: a stop by decision D3 (log 15). -/
  | stackOverflow (word pc : Word)
  /-- Code 4. Raised by fetch when PC + 1 is above 0xFFF (60_exceptions.md R223). Safe: a stop by decision D10 (log 15). -/
  | fetchOutOfRange (pc : Word)
  /-- Code 5. Raised by Dxyn, Fx33, Fx55, Fx65 on an address above 0xFFF; `addr` is the lowest such address
  (60_exceptions.md R225). Safe: a stop by decision D9 (log 15). -/
  | memoryOutOfRange (word pc : Word) (addr : Nat)
  /-- Code 6. Raised by Ex9E and ExA1 when V[x] is above 15 (60_exceptions.md R226). Safe: a stop by decision D11 (log 15). -/
  | keyOutOfRange (word pc : Word) (value : Byte)
deriving DecidableEq, Repr, Inhabited

/-- The fault status held beside the state record (10_state.md R21). -/
inductive Status where
  | running
  | faulted (record : Fault)
deriving DecidableEq, Repr, Inhabited

/-- What is no operation of the block, or has no meaning in the model. -/
inductive Refusal where
  /-- An instruction without a meaning yet; only `exec` answers so. Safe. No arm is in this state. -/
  | notModelled (mnemonic : String)
  /-- `step` on a faulted core: no step exists there (40_execution_cycle.md R110, 60_exceptions.md R220). Safe. -/
  | coreFaulted (record : Fault)
  /-- `press` or `release` with an argument outside 0..15 (45_timers_input.md R208). Safe. -/
  | notAKey (key : Nat)
deriving DecidableEq, Repr, Inhabited

/-- The error of construction (60_exceptions.md R229, 70_reset_and_hazards.md R251): no instance exists after it. -/
inductive LoadError where
  | programTooLarge (length : Nat)
deriving DecidableEq, Repr, Inhabited

/-- Memory as the bytes that differ from what an unlisted address reads as, at strictly rising addresses (log 10). -/
abbrev Memory := List Host.Cell

/-- The display buffer: 32 rows of 64 boolean cells (10_state.md R35). -/
abbrev Display := Vector (Vector Bool 64) 32

/-- Everything the spec gives the machine (10_state.md R20, R21), the configuration it was constructed with (log 1), and two
fields of the model's own, `dirty` (log 6) and `draws` (log 5). -/
structure State where
  /-- M (20_memory.md R50) -/
  mem : Memory
  /-- V0..VF (10_state.md R22) -/
  v : Vector Byte 16
  /-- I (10_state.md R28) -/
  i : Word
  /-- PC (10_state.md R26) -/
  pc : Word
  /-- S, the most recent push last (00_scope.md R9, 10_state.md R29) -/
  stack : List Word
  /-- DT (10_state.md R31) -/
  dt : Byte
  /-- ST (10_state.md R31) -/
  st : Byte
  /-- ACC (10_state.md R32) -/
  acc : Nat
  /-- K, true = pressed (10_state.md R33) -/
  keys : Vector Bool 16
  /-- LRK (10_state.md R34) -/
  lrk : Option (Fin 16)
  /-- DISP (10_state.md R35) -/
  disp : Display
  /-- The fault status (10_state.md R21) -/
  status : Status
  /-- The `dirty` of the outcome ok(dirty) of the step just taken (40_execution_cycle.md R107, R109; log 6) -/
  dirty : Bool
  /-- How many RandomByte draws were taken (42_register_alu.md R153; log 5) -/
  draws : Nat
  /-- The configuration, fixed at construction (10_state.md R20; log 1) -/
  cfg : Config
deriving DecidableEq, Repr, Inhabited

/-- The state construction leaves with no program loaded (70_reset_and_hazards.md R250, 10_state.md R20). -/
def State.initial (cfg : Config) : State where
  mem := []
  v := Vector.replicate 16 0
  i := 0
  pc := 0x200
  stack := []
  dt := 0
  st := 0
  acc := 0
  keys := Vector.replicate 16 false
  lrk := none
  disp := Vector.replicate 32 (Vector.replicate 64 false)
  status := .running
  dirty := false
  draws := 0
  cfg := cfg

/-- The machine right after reset: constructed with the default parameters and no program (70_reset_and_hazards.md R250;
log 2, 12). -/
def State.reset : State := State.initial Config.default

end Sys2Proof.Machine
end

