-- ==== Sys2Proof/Machine/Ops.lean ====
section
/-!
DEFINITION. The named operations over memory, registers, the stack, the timers and the display cells, raising a fault, and
the phases of a step other than execute (40_execution_cycle.md).
-/

namespace Sys2Proof.Machine

/-- What a meaning answers. -/
abbrev Answer := Host.Outcome State Fault Refusal

/-! ## Memory (20_memory.md) -/

/-- What an address that memory does not list reads as: the reset contents before a program is loaded, which are the font
in [0x050, 0x0A0) and zero elsewhere (20_memory.md R57, 70_reset_and_hazards.md R250). -/
def Memory.unlisted (font : Font) (a : Nat) : Byte :=
  if h : fontBase ≤ a ∧ a < fontBase + fontSize then
    font[a - fontBase]'(by simp only [fontBase, fontSize] at *; omega)
  else 0

/-- The byte memory lists at an address, if any. -/
def Memory.lookup : Memory → Nat → Option Byte
  | [], _ => none
  | (b, u) :: m, a => if a = b then some u else Memory.lookup m a

/-- `M[a]` (20_memory.md R50). -/
def Memory.read (font : Font) (m : Memory) (a : Nat) : Byte := (m.lookup a).getD (Memory.unlisted font a)

/-- `M[a] <- v`, keeping the canonical form: the address takes its place in the rising order, and a byte equal to what an
unlisted address reads as is not listed (00_scope.md R10). -/
def Memory.write (font : Font) : Memory → Nat → Byte → Memory
  | [], a, v => if v = Memory.unlisted font a then [] else [(a, v)]
  | (b, u) :: m, a, v =>
    if b < a then (b, u) :: Memory.write font m a v
    else
      let rest := if b = a then m else (b, u) :: m
      if v = Memory.unlisted font a then rest else (a, v) :: rest

/-- Writes bytes at ascending addresses from `a`, byte k at a + k (20_memory.md R53, R54). -/
def Memory.writeBytes (font : Font) : Memory → Nat → List Byte → Memory
  | m, _, [] => m
  | m, a, b :: bs => Memory.writeBytes font (Memory.write font m a b) (a + 1) bs

/-- Reads `n` bytes at ascending addresses from `a` (20_memory.md R53, R54). -/
def Memory.readBytes (font : Font) (m : Memory) : Nat → Nat → List Byte
  | _, 0 => []
  | a, n + 1 => Memory.read font m a :: Memory.readBytes font m (a + 1) n

/-- The canonical form from address `lo` up: strictly rising addresses inside the address space, and no entry equal to what
an unlisted address reads as (log 10). -/
def Memory.canonicalFrom (font : Font) : Nat → Memory → Bool
  | _, [] => true
  | lo, (a, v) :: m =>
    decide (lo ≤ a) && decide (a < memSize) && decide (v ≠ Memory.unlisted font a) && Memory.canonicalFrom font (a + 1) m

/-- Memory is in its one canonical form (log 10). -/
def Memory.wf (font : Font) (m : Memory) : Bool := Memory.canonicalFrom font 0 m

/-- The lowest address above 0xFFF among the `count` addresses from `a`, if there is one (43_index_memory.md R171; for an `a`
already above 0xFFF that is `a` itself, log 11). -/
def outOfRange (a count : Nat) : Option Nat :=
  if count = 0 ∨ a + count ≤ memSize then none else some (max a memSize)

/-- `M[a]` of a state. -/
def State.peek (s : State) (a : Nat) : Byte := s.mem.read s.cfg.font a

/-- The bytes at a, a+1, .., a+n−1 of a state. -/
def State.peekBytes (s : State) (a n : Nat) : List Byte := s.mem.readBytes s.cfg.font a n

/-- Stores bytes at a, a+1, .. of a state. -/
def State.pokeBytes (s : State) (a : Nat) (bs : List Byte) : State :=
  { s with mem := s.mem.writeBytes s.cfg.font a bs }

/-! ## Registers (10_state.md) -/

/-- `V[x]` (10_state.md R22). -/
def State.reg (s : State) (x : Reg) : Byte := s.v[x.toNat]'x.isLt

/-- `V[x] <- b` (10_state.md R22). -/
def State.setReg (s : State) (x : Reg) (b : Byte) : State := { s with v := s.v.set x.toNat b x.isLt }

/-- Writes bytes to V0, V1, .. in ascending order, as far as there are registers (43_index_memory.md R176). -/
def loadRegs : List Byte → Nat → Vector Byte 16 → Vector Byte 16
  | [], _, v => v
  | b :: bs, k, v => loadRegs bs (k + 1) (v.setIfInBounds k b)

/-- Replaces the register file. -/
def State.setRegs (s : State) (v : Vector Byte 16) : State := { s with v := v }

/-- `I <- a` (10_state.md R28). -/
def State.setIndex (s : State) (a : Word) : State := { s with i := a }

/-- `PC <- a` (10_state.md R26). -/
def State.setPc (s : State) (a : Word) : State := { s with pc := a }

/-- `skip`: PC advances by 2 more (41_control_flow.md R120). -/
def State.skip (s : State) : State := s.setPc (s.pc + 2)

/-- `PC <- PC − 2`: the instruction executes again in the next step (45_timers_input.md R205). -/
def State.rewind (s : State) : State := s.setPc (s.pc - 2)

/-- `DT <- b` (10_state.md R31). -/
def State.setDelay (s : State) (b : Byte) : State := { s with dt := b }

/-- `ST <- b` (10_state.md R31). -/
def State.setSound (s : State) (b : Byte) : State := { s with st := b }

/-- Replaces the display buffer (10_state.md R35). -/
def State.setDisplay (s : State) (d : Display) : State := { s with disp := d }

/-- The `dirty` value of this step's outcome (40_execution_cycle.md R107). -/
def State.setDirty (s : State) (b : Bool) : State := { s with dirty := b }

/-! ## Call stack (10_state.md R29, R30) -/

/-- Replaces the call stack. -/
def State.setStack (s : State) (l : List Word) : State := { s with stack := l }

/-- `push(S, a)` appends (00_scope.md R9). -/
def State.push (s : State) (a : Word) : State := s.setStack (s.stack ++ [a])

/-- The last element of S, which `pop(S)` returns, if S is not empty (00_scope.md R9). -/
def State.top (s : State) : Option Word := s.stack.getLast?

/-- S without its last element, as `pop(S)` leaves it (00_scope.md R9). -/
def State.dropTop (s : State) : State := s.setStack s.stack.dropLast

/-- S holds `STACK_LIMIT` entries (41_control_flow.md R123); never so when it is unbounded. A stack above the limit, which
no run reaches, is full too. -/
def State.stackFull (s : State) : Bool :=
  match s.cfg.stackLimit with
  | none => false
  | some limit => decide (limit ≤ s.stack.length)

/-! ## The free draw -/

/-- `RandomByte()`: one 8-bit draw, the free value at the draw counter (00_scope.md R10, 42_register_alu.md R153; log 5). -/
def State.randomByte (s : State) : Byte := Config.randomByte s.draws

/-- Counts a draw, so that the next one is another free value (log 5). -/
def State.countDraw (s : State) : State := { s with draws := s.draws + 1 }

/-! ## Raising a fault (60_exceptions.md R220, R227)

There is no trap: no handler, saved register, mode change or return (60_exceptions.md R220, R231). Raising a fault ends the
step with its record, in one operation. -/

/-- The pc a fault record holds, read in the execute or decode phase, where PC is the instruction's address plus 2
(60_exceptions.md R227, 40_execution_cycle.md R103). -/
def State.reportPc (s : State) : Word :=
  match s.cfg.faultPcReport with
  | .instrAddr => s.pc - 2
  | .nextPc => s.pc

/-- Instruction `i` raises a fault: the record's word is the instruction's word (log 8), its pc the reported pc. -/
def raise (i : Instr) (record : Word → Word → Fault) (s : State) : Answer := .fault (record (encode i) s.reportPc)

/-- The bounds check of an instruction that accesses `count` bytes from I, before any of its effects (43_index_memory.md
R171): it goes on with `next`, or raises MemoryOutOfRange (60_exceptions.md R225). -/
def checkBounds (i : Instr) (count : Nat) (s : State) (next : State) : Answer :=
  match outOfRange s.i.toNat count with
  | none => .next next
  | some addr => raise i (fun word pc => .memoryOutOfRange word pc addr) s

/-! ## The phases of a step around execute (40_execution_cycle.md R100) -/

/-- A timer counts down to 0 and stays there (40_execution_cycle.md R101). -/
def countDown (b : Byte) : Byte := if b = 0 then 0 else b - 1

/-- Phase 1, the timer tick (40_execution_cycle.md R101). `speed / 60` rounds down here; the exact quotient gives the same
ticks (R102). -/
def tick (s : State) : State :=
  if s.acc + 1 > s.cfg.speed / timerRate then
    { s with acc := 0, dt := countDown s.dt, st := countDown s.st }
  else { s with acc := s.acc + 1 }

/-- Phase 2, the word at PC, or none when PC + 1 is above 0xFFF (40_execution_cycle.md R103, 60_exceptions.md R223). -/
def fetch (s : State) : Option Word :=
  if s.pc.toNat + 1 < memSize then some (wordOfBytes (s.peek s.pc.toNat) (s.peek (s.pc.toNat + 1)))
  else none

/-- The end of phase 2 and the start of execute: PC advances by 2 before dispatch (40_execution_cycle.md R103), and `dirty`
is false until the instruction makes it true (R107). -/
def enterExecute (s : State) : State := { s with pc := s.pc + 2, dirty := false }

/-- Phase 5: `LRK <- none` (40_execution_cycle.md R108). -/
def cleanup (s : State) : State := { s with lrk := none }

/-- Phase 5 runs only when execute raised nothing (40_execution_cycle.md R100). -/
def endStep : Answer → Answer
  | .next s => .next (cleanup s)
  | .fault r => .fault r
  | .refused r => .refused r

/-- Stores a word where fetch reads the next instruction, when there is such a place (log 12). -/
def placeWord (s : State) (w : Word) : State :=
  if s.pc.toNat + 1 < memSize then s.pokeBytes s.pc.toNat (bytesOfWord w) else s

end Sys2Proof.Machine
end

