-- ==== Sys2Proof/Machine/Flags.lean ====
section
/-!
DEFINITION. The flag computations and the writes of VF as a flag (10_state.md R25, 42_register_alu.md R141).
-/

namespace Sys2Proof.Machine

/-- A condition as a flag value, 1 or 0. -/
def flagOf (c : Bool) : Byte := if c then 1 else 0

/-- Carry of an 8-bit addition: the unsigned sum exceeds 255 (42_register_alu.md R148). -/
def carryFlag (a b : Byte) : Byte := flagOf (decide (a.toNat + b.toNat > 255))

/-- No borrow: minuend ≥ subtrahend (42_register_alu.md R149, R151). -/
def noBorrowFlag (minuend subtrahend : Byte) : Byte := flagOf (decide (minuend.toNat ≥ subtrahend.toNat))

/-- The bit a right shift by one shifts out (42_register_alu.md R150). -/
def lowBitFlag (b : Byte) : Byte := flagOf (b.getLsbD 0)

/-- The bit a left shift by one shifts out (42_register_alu.md R152). -/
def highBitFlag (b : Byte) : Byte := flagOf (b.getLsbD 7)

/-- `VF <- f` (10_state.md R25). -/
def State.setFlag (s : State) (f : Byte) : State := s.setReg flagReg f

/-- `write_result_and_flag(r, f)`: both writes, in the order `VF_DEST_ORDER` sets (42_register_alu.md R141). -/
def State.writeResultAndFlag (s : State) (x : Reg) (r f : Byte) : State :=
  match s.cfg.vfDestOrder with
  | .flagLast => (s.setReg x r).setFlag f
  | .resultLast => (s.setFlag f).setReg x r

/-- VF after a draw: 1 on a collision, else as `DRAW_VF_NO_COLLISION` says (44_display.md R191). -/
def State.setCollision (s : State) (collided : Bool) : State :=
  if collided then s.setFlag 1
  else
    match s.cfg.drawVfNoCollision with
    | .zero => s.setFlag 0
    | .unchanged => s

end Sys2Proof.Machine
end

