-- ==== Sys2Proof/Machine/Operands.lean ====
section
/-!
DEFINITION. The operand forms (30_encoding.md R73) and the values instructions assemble from them.
-/

namespace Sys2Proof.Machine

/-- `nnn` as a 16-bit address, zero-extended (30_encoding.md R73, 43_index_memory.md R170). -/
def addrOperand (nnn : Addr) : Word := nnn.setWidth 16

/-- A byte zero-extended to 16 bits, `zext_16` (00_scope.md R8). -/
def zext16 (b : Byte) : Word := b.setWidth 16

/-- `nnn + zext_16(V[0])`, with no wrap to 12 bits (41_control_flow.md R128). -/
def offsetTarget (nnn : Addr) (s : State) : Word := addrOperand nnn + zext16 (s.reg 0)

/-- The address of byte `k` of an instruction's access, I + k (20_memory.md R53). -/
def indexAddr (s : State) (k : Nat) : Nat := s.i.toNat + k

/-- How many registers V0..Vx are (43_index_memory.md R175, R176). -/
def blockLength (x : Reg) : Nat := x.toNat + 1

/-- The values of V0..Vx in ascending order (43_index_memory.md R175). -/
def blockValues (s : State) (x : Reg) : List Byte := s.v.toList.take (blockLength x)

/-- The address of the font glyph for a register's value, which is not reduced to its low nibble
(43_index_memory.md R173). -/
def glyphAddr (b : Byte) : Word := BitVec.ofNat 16 fontBase + 5 * zext16 b

/-- The decimal hundreds, tens and ones digits (43_index_memory.md R174). -/
def decimalDigits (b : Byte) : List Byte :=
  [BitVec.ofNat 8 (b.toNat / 100), BitVec.ofNat 8 (b.toNat / 10 % 10), BitVec.ofNat 8 (b.toNat % 10)]

/-- The key a register's value names, if it is at most 15 (45_timers_input.md R200). -/
def keyOperand (b : Byte) : Option (Fin 16) := if h : b.toNat < 16 then some ⟨b.toNat, h⟩ else none

/-- A key index as a register value (45_timers_input.md R205). -/
def keyByte (k : Fin 16) : Byte := BitVec.ofNat 8 k.val

/-- The sprite's `n` rows, row `row` at I + row (44_display.md R191). -/
def spriteRows (s : State) (n : Nibble) : List Byte := s.peekBytes s.i.toNat n.toNat

/-- Column `col` of a sprite row is bit 7 − col of its byte (44_display.md R192; log 17). -/
def spriteBit (b : Byte) (col : Nat) : Bool := b.getLsbD (7 - col)

/-- The display row of a row coordinate, mod 32 (44_display.md R191). -/
def wrapRow (r : Nat) : Fin 32 := ⟨r % 32, Nat.mod_lt _ (by decide)⟩

/-- The display column of a column coordinate, mod 64 (44_display.md R191). -/
def wrapCol (c : Nat) : Fin 64 := ⟨c % 64, Nat.mod_lt _ (by decide)⟩

end Sys2Proof.Machine
end

