-- ==== Sys2Proof/Machine/Alu.lean ====
section
/-!
DEFINITION. Register loads and arithmetic (42_register_alu.md). Bit-vector addition and subtraction are modulo 256 (R140), and
every source operand is read from the state before the instruction (R140).
-/

namespace Sys2Proof.Machine

/-- LD Vx, nn (42_register_alu.md R142). -/
def execLdImm (x : Reg) (nn : Byte) (s : State) : Answer := .next (s.setReg x nn)

/-- ADD Vx, nn: VF is not written as a flag (42_register_alu.md R143). -/
def execAddImm (x : Reg) (nn : Byte) (s : State) : Answer := .next (s.setReg x (s.reg x + nn))

/-- LD Vx, Vy (42_register_alu.md R144). -/
def execLdReg (x y : Reg) (s : State) : Answer := .next (s.setReg x (s.reg y))

/-- OR Vx, Vy: VF is not reset (42_register_alu.md R145). -/
def execOrReg (x y : Reg) (s : State) : Answer := .next (s.setReg x (s.reg x ||| s.reg y))

/-- AND Vx, Vy (42_register_alu.md R146). -/
def execAndReg (x y : Reg) (s : State) : Answer := .next (s.setReg x (s.reg x &&& s.reg y))

/-- XOR Vx, Vy (42_register_alu.md R147). -/
def execXorReg (x y : Reg) (s : State) : Answer := .next (s.setReg x (s.reg x ^^^ s.reg y))

/-- ADD Vx, Vy (42_register_alu.md R148). -/
def execAddReg (x y : Reg) (s : State) : Answer :=
  .next (s.writeResultAndFlag x (s.reg x + s.reg y) (carryFlag (s.reg x) (s.reg y)))

/-- SUB Vx, Vy: minuend Vx (42_register_alu.md R149). -/
def execSubReg (x y : Reg) (s : State) : Answer :=
  .next (s.writeResultAndFlag x (s.reg x - s.reg y) (noBorrowFlag (s.reg x) (s.reg y)))

/-- SHR Vx, Vy: the source is Vy (42_register_alu.md R150, 90_conflicts.md C2). -/
def execShrReg (x y : Reg) (s : State) : Answer :=
  .next (s.writeResultAndFlag x (s.reg y >>> 1) (lowBitFlag (s.reg y)))

/-- SUBN Vx, Vy: minuend Vy (42_register_alu.md R151). -/
def execSubnReg (x y : Reg) (s : State) : Answer :=
  .next (s.writeResultAndFlag x (s.reg y - s.reg x) (noBorrowFlag (s.reg y) (s.reg x)))

/-- SHL Vx, Vy: the source is Vy (42_register_alu.md R152, 90_conflicts.md C2). -/
def execShlReg (x y : Reg) (s : State) : Answer :=
  .next (s.writeResultAndFlag x (s.reg y <<< 1) (highBitFlag (s.reg y)))

/-- RND Vx, nn: one free draw, ANDed with nn (42_register_alu.md R153; log 5). -/
def execRnd (x : Reg) (nn : Byte) (s : State) : Answer := .next (s.countDraw.setReg x (s.randomByte &&& nn))

end Sys2Proof.Machine
end

