-- ==== Sys2Proof/Machine/Control.lean ====
section
/-!
DEFINITION. Control flow (41_control_flow.md). In every meaning PC already holds the instruction's address plus 2
(40_execution_cycle.md R103).
-/

namespace Sys2Proof.Machine

/-- RET (41_control_flow.md R121). -/
def execRet (s : State) : Answer :=
  match s.top with
  | none => raise .ret .stackUnderflow s
  | some a => .next (s.dropTop.setPc a)

/-- JP nnn (41_control_flow.md R122). -/
def execJp (nnn : Addr) (s : State) : Answer := .next (s.setPc (addrOperand nnn))

/-- CALL nnn: the pushed value is PC, the address after the call (41_control_flow.md R123). -/
def execCall (nnn : Addr) (s : State) : Answer :=
  if s.stackFull then raise (.call nnn) .stackOverflow s
  else .next ((s.push s.pc).setPc (addrOperand nnn))

/-- Skips the next word when the condition holds (41_control_flow.md R120). -/
def skipIf (c : Bool) (s : State) : Answer := .next (if c then s.skip else s)

/-- SE Vx, nn (41_control_flow.md R124). -/
def execSeImm (x : Reg) (nn : Byte) (s : State) : Answer := skipIf (s.reg x == nn) s

/-- SNE Vx, nn (41_control_flow.md R125). -/
def execSneImm (x : Reg) (nn : Byte) (s : State) : Answer := skipIf (s.reg x != nn) s

/-- SE Vx, Vy (41_control_flow.md R126). -/
def execSeReg (x y : Reg) (s : State) : Answer := skipIf (s.reg x == s.reg y) s

/-- SNE Vx, Vy (41_control_flow.md R127). -/
def execSneReg (x y : Reg) (s : State) : Answer := skipIf (s.reg x != s.reg y) s

/-- JP V0, nnn (41_control_flow.md R128). -/
def execJpV0 (nnn : Addr) (s : State) : Answer := .next (s.setPc (offsetTarget nnn s))

end Sys2Proof.Machine
end

