-- ==== Sys2Proof/Machine/Display.lean ====
section
/-!
DEFINITION. The display buffer instructions (44_display.md) and the sprite XOR they draw with.
-/

namespace Sys2Proof.Machine

/-- The buffer with every cell false (44_display.md R190). -/
def clearedDisplay : Display := Vector.replicate 32 (Vector.replicate 64 false)

/-- A display under drawing, and whether some cell has gone from set to unset so far (44_display.md R191). -/
abbrev Drawing := Display × Bool

/-- XORs one sprite bit into the cell of row `r` and column `c` (44_display.md R191). -/
def drawCell (bit : Bool) (r : Fin 32) (c : Fin 64) (d : Drawing) : Drawing :=
  let old := d.1[r][c]
  (d.1.set r (d.1[r].set c (old ^^ bit)), d.2 || (old && bit))

/-- Draws the 8 columns of one sprite row, column 0 first (44_display.md R191). -/
def drawRow (b : Byte) (row cx : Nat) (d : Drawing) : Drawing :=
  (List.range 8).foldl (fun d col => drawCell (spriteBit b col) (wrapRow row) (wrapCol (cx + col)) d) d

/-- Draws sprite rows downwards from row coordinate `cy`, at column coordinate `cx` (44_display.md R191). -/
def drawRows (cx : Nat) : List Byte → Nat → Drawing → Drawing
  | [], _, d => d
  | b :: bs, cy, d => drawRows cx bs (cy + 1) (drawRow b cy cx d)

/-- The display after DRW Vx, Vy, n, and whether it collided (44_display.md R191; log 20). -/
def drawSprite (s : State) (x y : Reg) (n : Nibble) : Drawing :=
  drawRows (s.reg x).toNat (spriteRows s n) (s.reg y).toNat (s.disp, false)

/-- CLS (44_display.md R190), with its dirty value (40_execution_cycle.md R107). -/
def execCls (s : State) : Answer := .next ((s.setDisplay clearedDisplay).setDirty s.cfg.clearSetsDirty)

/-- DRW Vx, Vy, n: VF is written last (44_display.md R191). -/
def execDrw (x y : Reg) (n : Nibble) (s : State) : Answer :=
  checkBounds (.drw x y n) n.toNat s
    (((s.setDisplay (drawSprite s x y n).1).setCollision (drawSprite s x y n).2).setDirty true)

end Sys2Proof.Machine
end

