-- ==== Sys2Proof/Machine/Index.lean ====
section
/-!
DEFINITION. The index register and the instructions that move data between registers and memory (43_index_memory.md).
-/

namespace Sys2Proof.Machine

/-- LD I, nnn (43_index_memory.md R170). -/
def execLdI (nnn : Addr) (s : State) : Answer := .next (s.setIndex (addrOperand nnn))

/-- ADD I, Vx: a sum above 0xFFF wraps to 12 bits and sets VF to 1; otherwise VF is not written (43_index_memory.md R172;
log 16, 19). -/
def execAddI (x : Reg) (s : State) : Answer :=
  let t := s.i.toNat + (s.reg x).toNat
  .next (if t > 0xFFF then (s.setIndex (BitVec.ofNat 16 (t % 0x1000))).setFlag 1 else s.setIndex (BitVec.ofNat 16 t))

/-- LD F, Vx (43_index_memory.md R173). -/
def execLdF (x : Reg) (s : State) : Answer := .next (s.setIndex (glyphAddr (s.reg x)))

/-- LD B, Vx (43_index_memory.md R174). -/
def execLdB (x : Reg) (s : State) : Answer :=
  checkBounds (.ldB x) 3 s (s.pokeBytes (indexAddr s 0) (decimalDigits (s.reg x)))

/-- `I <- I + x + 1` under `LOADSTORE_INDEX_INCREMENT` (43_index_memory.md R175, R176). -/
def State.advanceIndex (s : State) (x : Reg) : State :=
  if s.cfg.loadstoreIndexIncrement then s.setIndex (s.i + x.setWidth 16 + 1) else s

/-- LD [I], Vx (43_index_memory.md R175). -/
def execLdMemVx (x : Reg) (s : State) : Answer :=
  checkBounds (.ldMemVx x) (blockLength x) s ((s.pokeBytes (indexAddr s 0) (blockValues s x)).advanceIndex x)

/-- LD Vx, [I] (43_index_memory.md R176; log 20). -/
def execLdVxMem (x : Reg) (s : State) : Answer :=
  checkBounds (.ldVxMem x) (blockLength x) s
    ((s.setRegs (loadRegs (s.peekBytes (indexAddr s 0) (blockLength x)) 0 s.v)).advanceIndex x)

end Sys2Proof.Machine
end

