-- ==== Sys2Proof/Machine/Input.lean ====
section
/-!
DEFINITION. The key and timer instructions (45_timers_input.md).
-/

namespace Sys2Proof.Machine

/-- Skips when the key V[x] names is in the wanted state; a value above 15 raises KeyOutOfRange (45_timers_input.md R200,
R201, 60_exceptions.md R226). -/
def skipIfKey (i : Instr) (x : Reg) (pressed : Bool) (s : State) : Answer :=
  match keyOperand (s.reg x) with
  | none => raise i (fun word pc => .keyOutOfRange word pc (s.reg x)) s
  | some k => .next (if s.keys[k] = pressed then s.skip else s)

/-- SKP Vx (45_timers_input.md R200). -/
def execSkp (x : Reg) (s : State) : Answer := skipIfKey (.skp x) x true s

/-- SKNP Vx (45_timers_input.md R201). -/
def execSknp (x : Reg) (s : State) : Answer := skipIfKey (.sknp x) x false s

/-- LD Vx, DT: DT after this step's tick (45_timers_input.md R202). -/
def execLdVxDt (x : Reg) (s : State) : Answer := .next (s.setReg x s.dt)

/-- LD Vx, K: stores the released key, or waits by executing again (45_timers_input.md R205). -/
def execLdVxK (x : Reg) (s : State) : Answer :=
  match s.lrk with
  | some k => .next (s.setReg x (keyByte k))
  | none => .next s.rewind

/-- LD DT, Vx (45_timers_input.md R203). -/
def execLdDtVx (x : Reg) (s : State) : Answer := .next (s.setDelay (s.reg x))

/-- LD ST, Vx (45_timers_input.md R204). -/
def execLdStVx (x : Reg) (s : State) : Answer := .next (s.setSound (s.reg x))

end Sys2Proof.Machine
end

