-- ==== Sys2Proof/Machine/Step.lean ====
section
/-!
DEFINITION. The step (40_execution_cycle.md R100): tick, fetch, decode, execute, cleanup, each a definition of its own.
-/

namespace Sys2Proof.Machine

/-- `step()` (40_execution_cycle.md R100). The checks come in the order of 60_exceptions.md R228; a faulted core has no step
(R110; log 7). -/
def step (s : State) : Host.Outcome State Fault Refusal :=
  match s.status with
  | .faulted record => .refused (.coreFaulted record)
  | .running =>
    match fetch (tick s) with
    | none => .fault (.fetchOutOfRange (tick s).pc)
    | some w =>
      match decode w with
      | none => .fault (.unimplemented w (enterExecute (tick s)).reportPc)
      | some i => endStep (exec i (enterExecute (tick s)))

/-- The state with an instruction placed where `step` fetches next (log 12). The word is laid out as memory stores it,
big-endian (20_memory.md R53). -/
def State.withFetchWord (s : State) (nbits w : Nat) : State := placeWord s (tableWord nbits w)

end Sys2Proof.Machine
end

