-- ==== Sys2Proof/Machine/Faults.lean ====
section
/-!
DEFINITION. The parts of a fault record, `{kind, code, word, pc, info}` (60_exceptions.md R227). The kind is the constructor.
-/

namespace Sys2Proof.Machine

/-- The `info` of a fault record (60_exceptions.md R227). -/
inductive FaultInfo where
  | empty
  | addr (a : Nat)
  | value (b : Byte)
deriving DecidableEq, Repr

/-- The fault's code (60_exceptions.md R221 to R226, D24). -/
def Fault.code : Fault → Nat
  | .unimplemented _ _ => 1
  | .stackUnderflow _ _ => 2
  | .stackOverflow _ _ => 3
  | .fetchOutOfRange _ => 4
  | .memoryOutOfRange _ _ _ => 5
  | .keyOutOfRange _ _ _ => 6

/-- The record's instruction word; none for FetchOutOfRange (60_exceptions.md R227). -/
def Fault.word : Fault → Option Word
  | .unimplemented w _ => some w
  | .stackUnderflow w _ => some w
  | .stackOverflow w _ => some w
  | .fetchOutOfRange _ => none
  | .memoryOutOfRange w _ _ => some w
  | .keyOutOfRange w _ _ => some w

/-- The record's pc (60_exceptions.md R227). -/
def Fault.pc : Fault → Word
  | .unimplemented _ pc => pc
  | .stackUnderflow _ pc => pc
  | .stackOverflow _ pc => pc
  | .fetchOutOfRange pc => pc
  | .memoryOutOfRange _ pc _ => pc
  | .keyOutOfRange _ pc _ => pc

/-- The record's info (60_exceptions.md R227). -/
def Fault.info : Fault → FaultInfo
  | .unimplemented _ _ => .empty
  | .stackUnderflow _ _ => .empty
  | .stackOverflow _ _ => .empty
  | .fetchOutOfRange _ => .empty
  | .memoryOutOfRange _ _ addr => .addr addr
  | .keyOutOfRange _ _ value => .value value

/-- The load error's code, 0 (60_exceptions.md R229). -/
def LoadError.code : LoadError → Nat
  | .programTooLarge _ => 0

end Sys2Proof.Machine
end

