-- ==== Sys2Proof/Machine/HostPort.lean ====
section
/-!
DEFINITION. The host interface (60_exceptions.md R236). Every operation acts on one explicit instance, between steps
(20_memory.md R61; log 13).
-/

namespace Sys2Proof.Machine

/-- `construct(program_bytes, speed)`, the block's reset (70_reset_and_hazards.md R250); `speed` and the other parameters are
in `cfg`. A program above 3584 bytes gives the load error and no instance (R251). -/
def construct (cfg : Config) (program : List Byte) : Except LoadError State :=
  if program.length > progMax then .error (.programTooLarge program.length)
  else .ok ((State.initial cfg).pokeBytes progBase program)

/-- `press(key)` (45_timers_input.md R206); an argument that is no key is refused (R208). -/
def press (key : Nat) (s : State) : Answer :=
  if h : key < 16 then .next { s with keys := s.keys.set key true h } else .refused (.notAKey key)

/-- `release(key)` (45_timers_input.md R207); an argument that is no key is refused (R208). -/
def release (key : Nat) (s : State) : Answer :=
  if h : key < 16 then .next { s with keys := s.keys.set key false h, lrk := some ⟨key, h⟩ }
  else .refused (.notAKey key)

/-- What `step()` gives the host (60_exceptions.md R236, 40_execution_cycle.md R109). -/
inductive StepAnswer where
  | ok (dirty : Bool)
  | fault (record : Fault)
  /-- No step exists: the core has faulted before (40_execution_cycle.md R110). -/
  | noStep (reason : Refusal)
deriving DecidableEq, Repr

/-- The state record after a faulting step, which is not specified and which no claim may read (60_exceptions.md R227, D13):
a free value, with no body (log 7). -/
opaque freeRecord : State → State

/-- `step()` as the host calls it: the answer, and the instance afterwards. A fault leaves the status faulted with its record
(60_exceptions.md R220, 10_state.md R21), every other part of the state unspecified. -/
def hostStep (s : State) : StepAnswer × State :=
  match step s with
  | .next t => (.ok t.dirty, t)
  | .fault record => (.fault record, { freeRecord s with status := .faulted record })
  | .refused reason => (.noStep reason, s)

/-- The display read port, cell c of 0..2047 in row-major order (10_state.md R35, 60_exceptions.md R236). -/
def readDisplay (s : State) : List Bool := (s.disp.toList.map Vector.toList).flatten

/-- `sound_active = (ST > 0)` (60_exceptions.md R235). -/
def soundActive (s : State) : Bool := decide (s.st.toNat > 0)

end Sys2Proof.Machine
end

