-- ==== Sys2Proof/WellFormed.lean ====
section
/-!
DEFINITION. What is well formed among the data that reach the block from outside: an instruction word, a program image, a
key argument. An `Instr` itself needs no check: each operand type holds exactly the values its field can encode
(10_state.md R23, 30_encoding.md R73), so every term of `Instr` is an instruction the block has.
-/

namespace Sys2Proof

/-- One row of the opcode map: a word `w` belongs to it when `w & mask = match` (30_encoding.md R93). -/
structure OpcodeRow where
  mnemonic : String
  mask : Word
  pattern : Word
deriving DecidableEq, Repr

/-- `w` matches the row (30_encoding.md R93). -/
def OpcodeRow.holds (r : OpcodeRow) (w : Word) : Bool := w &&& r.mask == r.pattern

/-- Rows of ops 0 to 7 (30_encoding.md R93). -/
def opcodeRowsLow : List OpcodeRow :=
  [⟨"CLS", 0xFFFF#16, 0x00E0#16⟩,
   ⟨"RET", 0xFFFF#16, 0x00EE#16⟩,
   ⟨"JP_nnn", 0xF000#16, 0x1000#16⟩,
   ⟨"CALL_nnn", 0xF000#16, 0x2000#16⟩,
   ⟨"SE_Vx__nn", 0xF000#16, 0x3000#16⟩,
   ⟨"SNE_Vx__nn", 0xF000#16, 0x4000#16⟩,
   ⟨"SE_Vx__Vy", 0xF00F#16, 0x5000#16⟩,
   ⟨"LD_Vx__nn", 0xF000#16, 0x6000#16⟩,
   ⟨"ADD_Vx__nn", 0xF000#16, 0x7000#16⟩]

/-- Rows of ops 8 to D (30_encoding.md R93). -/
def opcodeRowsMid : List OpcodeRow :=
  [⟨"LD_Vx__Vy", 0xF00F#16, 0x8000#16⟩,
   ⟨"OR_Vx__Vy", 0xF00F#16, 0x8001#16⟩,
   ⟨"AND_Vx__Vy", 0xF00F#16, 0x8002#16⟩,
   ⟨"XOR_Vx__Vy", 0xF00F#16, 0x8003#16⟩,
   ⟨"ADD_Vx__Vy", 0xF00F#16, 0x8004#16⟩,
   ⟨"SUB_Vx__Vy", 0xF00F#16, 0x8005#16⟩,
   ⟨"SHR_Vx__Vy", 0xF00F#16, 0x8006#16⟩,
   ⟨"SUBN_Vx__Vy", 0xF00F#16, 0x8007#16⟩,
   ⟨"SHL_Vx__Vy", 0xF00F#16, 0x800E#16⟩,
   ⟨"SNE_Vx__Vy", 0xF00F#16, 0x9000#16⟩,
   ⟨"LD_I__nnn", 0xF000#16, 0xA000#16⟩,
   ⟨"JP_V0__nnn", 0xF000#16, 0xB000#16⟩,
   ⟨"RND_Vx__nn", 0xF000#16, 0xC000#16⟩,
   ⟨"DRW_Vx__Vy__n", 0xF000#16, 0xD000#16⟩]

/-- Rows of ops E and F (30_encoding.md R93). -/
def opcodeRowsHigh : List OpcodeRow :=
  [⟨"SKP_Vx", 0xF0FF#16, 0xE09E#16⟩,
   ⟨"SKNP_Vx", 0xF0FF#16, 0xE0A1#16⟩,
   ⟨"LD_Vx__DT", 0xF0FF#16, 0xF007#16⟩,
   ⟨"LD_Vx__K", 0xF0FF#16, 0xF00A#16⟩,
   ⟨"LD_DT__Vx", 0xF0FF#16, 0xF015#16⟩,
   ⟨"LD_ST__Vx", 0xF0FF#16, 0xF018#16⟩,
   ⟨"ADD_I__Vx", 0xF0FF#16, 0xF01E#16⟩,
   ⟨"LD_F__Vx", 0xF0FF#16, 0xF029#16⟩,
   ⟨"LD_B__Vx", 0xF0FF#16, 0xF033#16⟩,
   ⟨"LD__I___Vx", 0xF0FF#16, 0xF055#16⟩,
   ⟨"LD_Vx___I", 0xF0FF#16, 0xF065#16⟩]

/-- The complete opcode map, 34 rows (30_encoding.md R93). It is written independently of the decoder, which a statement
compares with it. -/
def opcodeTable : List OpcodeRow := opcodeRowsLow ++ opcodeRowsMid ++ opcodeRowsHigh

/-- A word is an instruction exactly when some row holds of it; every other word is unimplemented (30_encoding.md R94). -/
def wordWellFormed (w : Word) : Bool := opcodeTable.any (fun r => r.holds w)

/-- A program image fits in [0x200, 0xFFF] (70_reset_and_hazards.md R251). -/
def programWellFormed (program : List Byte) : Bool := decide (program.length ≤ progMax)

/-- A key argument of the host names one of the sixteen keys (45_timers_input.md R208). -/
def keyWellFormed (key : Nat) : Bool := decide (key < 16)

end Sys2Proof
end

