-- ==== Sys2Proof/Safety.lean ====
section
/-!
DEFINITION. The terms claims are stated in: the invariant of a run, what an instruction may change (its frame), the fault an
instruction's own check raises, the reachable states, and a sprite as a picture.
-/

namespace Sys2Proof.Machine

/-- What holds of every state a run reaches: memory is canonical (log 10), I is bounded (10_state.md R28), PC and the saved
addresses are bounded (R27), the stack is within its limit (R30), ACC has not passed the period (R32). -/
structure Inv (s : State) : Prop where
  memory : s.mem.wf s.cfg.font = true
  index : s.i.toNat ≤ if s.cfg.loadstoreIndexIncrement then 0x1000 else 0xFFF
  pc : s.pc.toNat ≤ 0x10FE
  stackEntries : ∀ a ∈ s.stack, a.toNat ≤ 0x1000
  stackDepth : ∀ limit, s.cfg.stackLimit = some limit → s.stack.length ≤ limit
  acc : s.acc ≤ s.cfg.speed / 60

/-- What an instruction may change; everything not named here stays. `stored` is the first address it stores to and how many
bytes. -/
structure Effects where
  regs : List Reg := []
  pc : Bool := false
  index : Bool := false
  stack : Bool := false
  delay : Bool := false
  sound : Bool := false
  display : Bool := false
  dirty : Bool := false
  draws : Bool := false
  stored : Nat × Nat := (0, 0)
deriving DecidableEq, Repr

/-- From `s` to `t` nothing changes but what `e` names. Memory is compared byte by byte, as it reads. -/
structure Frame (e : Effects) (s t : State) : Prop where
  regs : ∀ x, x ∉ e.regs → t.reg x = s.reg x
  pc : e.pc = false → t.pc = s.pc
  index : e.index = false → t.i = s.i
  stack : e.stack = false → t.stack = s.stack
  delay : e.delay = false → t.dt = s.dt
  sound : e.sound = false → t.st = s.st
  display : e.display = false → t.disp = s.disp
  dirty : e.dirty = false → t.dirty = s.dirty
  draws : e.draws = false → t.draws = s.draws
  memory : ∀ a, ¬ (e.stored.1 ≤ a ∧ a < e.stored.1 + e.stored.2) → t.peek a = s.peek a
  acc : t.acc = s.acc
  keys : t.keys = s.keys
  lrk : t.lrk = s.lrk
  status : t.status = s.status
  cfg : t.cfg = s.cfg

/-- The pc a fault of the execute phase reports (60_exceptions.md R227), written out for claims. -/
def faultPc (s : State) : Word := if s.cfg.faultPcReport = .instrAddr then s.pc - 2 else s.pc

/-- The bytes an instruction accesses from I (20_memory.md R51); none for the others. -/
def bytesAccessed : Instr → Nat
  | .drw _ _ n => n.toNat
  | .ldB _ => 3
  | .ldMemVx x => x.toNat + 1
  | .ldVxMem x => x.toNat + 1
  | _ => 0

/-- The fault of the one check an instruction may have of its own, if the check fails (60_exceptions.md R228). -/
def ownCheckFault (i : Instr) (s : State) : Option Fault :=
  match i with
  | .ret => if s.stack = [] then some (.stackUnderflow 0x00EE (faultPc s)) else none
  | .call _ => if s.stackFull then some (.stackOverflow (encode i) (faultPc s)) else none
  | .skp x => if (s.reg x).toNat > 15 then some (.keyOutOfRange (encode i) (faultPc s) (s.reg x)) else none
  | .sknp x => if (s.reg x).toNat > 15 then some (.keyOutOfRange (encode i) (faultPc s) (s.reg x)) else none
  | _ =>
    if bytesAccessed i ≠ 0 ∧ s.i.toNat + bytesAccessed i > 0x1000 then
      some (.memoryOutOfRange (encode i) (faultPc s) (max s.i.toNat 0x1000))
    else none

/-- The states an instance constructed with `cfg` can be in while it runs, under any interleaving of host operations
(60_exceptions.md R236). -/
inductive Reachable (cfg : Config) : State → Prop where
  | construct {program : List Byte} {s : State} (h : Sys2Proof.Machine.construct cfg program = .ok s) : Reachable cfg s
  | press {s t : State} {key : Nat} (hs : Reachable cfg s) (h : Sys2Proof.Machine.press key s = .next t) : Reachable cfg t
  | release {s t : State} {key : Nat} (hs : Reachable cfg s) (h : Sys2Proof.Machine.release key s = .next t) :
      Reachable cfg t
  | step {s t : State} (hs : Reachable cfg s) (h : Sys2Proof.Machine.step s = .next t) : Reachable cfg t

/-- A run of `k` steps from `s` is safe: no step of it faults or is refused. -/
def SafeRun (k : Nat) (s : State) : Prop := ∃ t, Sys2Proof.core.run k s = .next t

/-- Whether an `n`-row sprite at I, drawn with column origin `cx` and row origin `cy`, has a 1 bit on the cell of row `r` and
column `c`: the cell lies `dr` rows below and `dc` columns right of the origin, both wrapped, and bit 7 − dc of the byte
at I + dr is 1 (44_display.md R191, R192). -/
def spriteCovers (s : State) (cx cy n : Nat) (r : Fin 32) (c : Fin 64) : Bool :=
  let dr := (r.val + 32 - cy % 32) % 32
  let dc := (c.val + 64 - cx % 64) % 64
  decide (dr < n) && decide (dc < 8) && (s.peek (s.i.toNat + dr)).getLsbD (7 - dc)

/-- Some cell goes from set to unset in that draw (44_display.md R191). -/
def spriteCollides (s : State) (cx cy n : Nat) : Prop := ∃ r c, s.disp[r][c] = true ∧ spriteCovers s cx cy n r c = true

/-- V[x] and VF after `write_result_and_flag(r, f)` (42_register_alu.md R141). -/
def ResultAndFlag (s t : State) (x : Reg) (r f : Byte) : Prop :=
  (x ≠ flagReg → t.reg x = r ∧ t.reg flagReg = f) ∧
  (x = flagReg → t.reg flagReg = if s.cfg.vfDestOrder = .flagLast then f else r)

end Sys2Proof.Machine
end

