-- ==== Sys2Proof/Certificates/Slice0/Obligations.lean ====
section
/-!
DEFINITION. The statements for the provers. In those about `exec`, the state before is that of the execute phase: PC already
holds the instruction's address plus 2 (40_execution_cycle.md R103). A premise `mem.wf` is part of `Inv`, which
StepKeepsInvariant and ReachableStatesMeetInvariant state of every run.
-/

open Sys2Proof Sys2Proof.Machine

/-! ## Encoding -/

/-- Decoding an instruction's word gives the instruction back, every operand at every value (30_encoding.md R93, R71).
The bit patterns are the spec's from general knowledge, log 3. -/
def Obligations.DecodeOfEncode : Prop := ∀ i : Instr, decode (encode i) = some i

/-- A word that decodes is the one word of its instruction: no bit of it is ignored (30_encoding.md R93, R94). That
every bit is checked is the spec's decision D8, log 15. -/
def Obligations.EncodeOfDecode : Prop := ∀ (w : Word) (i : Instr), decode w = some i → encode i = w

/-- The decoder agrees with the opcode map: a word decodes exactly to the row whose mask and match hold of it, and a word no
row holds of is unimplemented (30_encoding.md R93, R94, R96; the rows' patterns are PRESUMED by the spec, log 3). -/
def Obligations.DecodeFollowsOpcodeMap : Prop :=
  ∀ w : Word,
    (decode w).map Instr.mnemonic = (opcodeTable.find? fun r => r.holds w).map OpcodeRow.mnemonic ∧
    (decode w = none ↔ wordWellFormed w = false)

/-- No two rows of the opcode map match the same word (30_encoding.md R93; patterns PRESUMED by the spec, log 3). -/
def Obligations.OpcodeRowsDisjoint : Prop :=
  opcodeTable.length = 34 ∧
  opcodeTable.Pairwise fun r q => ∀ w : Word, ¬ (r.holds w = true ∧ q.holds w = true)

/-- The unimplemented words, listed as 30_encoding.md R94 lists them, by op, n and nn (decision D8, log 15). -/
def Obligations.UnimplementedWordsListed : Prop :=
  ∀ w : Word, decode w = none ↔
    (fieldOp w = 0x0 ∧ w ≠ 0x00E0 ∧ w ≠ 0x00EE) ∨
    ((fieldOp w = 0x5 ∨ fieldOp w = 0x9) ∧ fieldN w ≠ 0) ∨
    (fieldOp w = 0x8 ∧ fieldN w ∈ ([0x8, 0x9, 0xA, 0xB, 0xC, 0xD, 0xF] : List Nibble)) ∨
    (fieldOp w = 0xE ∧ fieldNN w ∉ ([0x9E, 0xA1] : List Byte)) ∨
    (fieldOp w = 0xF ∧ fieldNN w ∉ ([0x07, 0x0A, 0x15, 0x18, 0x1E, 0x29, 0x33, 0x55, 0x65] : List Byte))

/-- A few words written out from 30_encoding.md R93, one or more of each family, decode as the map says; two that match no row
do not (patterns PRESUMED by the spec, log 3). -/
def Obligations.SampleWordsDecode : Prop :=
  decode 0x00EE = some .ret ∧ decode 0x2ABC = some (.call 0xABC) ∧ decode 0x5120 = some (.seReg 1 2) ∧
  decode 0x6A42 = some (.ldImm 0xA 0x42) ∧ decode 0x8ABE = some (.shlReg 0xA 0xB) ∧ decode 0xC30F = some (.rnd 3 0x0F) ∧
  decode 0xA123 = some (.ldI 0x123) ∧ decode 0xF733 = some (.ldB 7) ∧ decode 0xD123 = some (.drw 1 2 3) ∧
  decode 0xE19E = some (.skp 1) ∧ decode 0xF50A = some (.ldVxK 5) ∧ decode 0x0000 = none ∧ decode 0x5121 = none

/-! ## The step -/

/-- When the two bytes at PC make a word that decodes, the step is the tick, PC + 2 with `dirty` false, the instruction, and
the clearing of LRK (40_execution_cycle.md R100, R103, R105, R108). `dirty` in State is the model's choice, log 6. -/
def Obligations.StepRunsDecodedInstruction : Prop :=
  ∀ (s : State) (i : Instr), s.status = .running → s.pc.toNat + 1 ≤ 0xFFF →
    decode (s.peek s.pc.toNat ++ s.peek (s.pc.toNat + 1)) = some i →
    step s =
      match exec i { tick s with pc := s.pc + 2, dirty := false } with
      | .next t => .next { t with lrk := none }
      | .fault record => .fault record
      | .refused reason => .refused reason

/-- Storing an instruction's word where fetch reads makes the next step run that instruction, whatever stood there before
(20_memory.md R63, 40_execution_cycle.md R103). `withFetchWord` stands for loading a program, log 12. -/
def Obligations.PlacedWordIsExecuted : Prop :=
  ∀ (s : State) (i : Instr), s.status = .running → s.mem.wf s.cfg.font = true → s.pc.toNat + 1 ≤ 0xFFF →
    step (s.withFetchWord 16 (encode i).toNat) =
      endStep (exec i (enterExecute (tick (s.withFetchWord 16 (encode i).toNat))))

/-- Fetch sees what was stored, big-endian: after bytes are stored at `a`, the word at `a + k` is bytes k and k + 1
(20_memory.md R53, R63). -/
def Obligations.FetchSeesStoredBytes : Prop :=
  ∀ (s : State) (a k : Nat) (bs : List Byte) (first second : Byte),
    s.mem.wf s.cfg.font = true → a + bs.length ≤ 0x1000 → bs[k]? = some first → bs[k + 1]? = some second →
    fetch ((s.pokeBytes a bs).setPc (BitVec.ofNat 16 (a + k))) = some (first ++ second)

/-- The timer tick (40_execution_cycle.md R101), with the exact comparison `ACC > speed/60` multiplied out; and it runs first
in every step, whatever the step executes: ACC after the step is the tick's, and so are the timers unless Fx15 or Fx18 wrote
them. -/
def Obligations.TimerTickCountsAndDecrements : Prop :=
  ∀ s : State,
    (60 * (s.acc + 1) > s.cfg.speed →
      tick s = { s with acc := 0, dt := BitVec.ofNat 8 (s.dt.toNat - 1), st := BitVec.ofNat 8 (s.st.toNat - 1) }) ∧
    (¬ 60 * (s.acc + 1) > s.cfg.speed → tick s = { s with acc := s.acc + 1 }) ∧
    ∀ (t : State) (i : Instr), step s = .next t → decode (s.peek s.pc.toNat ++ s.peek (s.pc.toNat + 1)) = some i →
      t.acc = (tick s).acc ∧ ((∀ x, i ≠ .ldDtVx x) → t.dt = (tick s).dt) ∧ ((∀ x, i ≠ .ldStVx x) → t.st = (tick s).st) ∧
      (∀ x, i = .ldVxDt x → t.reg x = (tick s).dt)

/-- The timer period (40_execution_cycle.md R102): both readings of `ACC > speed/60` are ACC ≥ speed div 60 + 1, and from
ACC = 0 the timers go down once every P ticks and stay at 0. -/
def Obligations.TimersDecrementOncePerPeriod : Prop :=
  (∀ acc speed : Nat, 60 * acc > speed ↔ acc ≥ speed / 60 + 1) ∧
  ∀ (s : State) (k : Nat), s.acc = 0 →
    (tick^[k] s).acc = k % (s.cfg.speed / 60 + 1) ∧
    (tick^[k] s).dt.toNat = s.dt.toNat - k / (s.cfg.speed / 60 + 1) ∧
    (tick^[k] s).st.toNat = s.st.toNat - k / (s.cfg.speed / 60 + 1)

/-- No instruction reaches ACC (10_state.md R32): over any run, ACC counts the steps modulo the period. -/
def Obligations.RunsCountStepsModuloPeriod : Prop :=
  ∀ (k : Nat) (s t : State), Sys2Proof.core.run k s = .next t → s.acc < s.cfg.speed / 60 + 1 →
    t.acc = (s.acc + k) % (s.cfg.speed / 60 + 1)

/-- Fetch faults exactly when PC + 1 is above 0xFFF, with code 4, no word, and PC (60_exceptions.md R223). That this
is a fault is the spec's decision D10, log 15; the code is D24, log 22; PC for both report settings is log 9. -/
def Obligations.FetchFaultsExactlyOutOfRange : Prop :=
  (∀ (s : State) (pc : Word), s.status = .running →
    (step s = .fault (.fetchOutOfRange pc) ↔ s.pc.toNat + 1 > 0xFFF ∧ pc = s.pc)) ∧
  (∀ pc : Word, (Fault.fetchOutOfRange pc).code = 4 ∧ (Fault.fetchOutOfRange pc).word = none ∧
    (Fault.fetchOutOfRange pc).pc = pc)

/-- A fetched word that matches no row of the opcode map faults, with code 1, that word, and the instruction's address or the
next one as FAULT_PC_REPORT says (60_exceptions.md R224, R227; the code is the spec's decision D24, log 22). -/
def Obligations.UnmatchedWordFaults : Prop :=
  ∀ s : State, s.status = .running → s.pc.toNat + 1 ≤ 0xFFF →
    (∀ r ∈ opcodeTable, r.holds (s.peek s.pc.toNat ++ s.peek (s.pc.toNat + 1)) = false) →
    ∃ record : Fault, step s = .fault record ∧ record.code = 1 ∧
      record.word = some (s.peek s.pc.toNat ++ s.peek (s.pc.toNat + 1)) ∧
      record.pc = if s.cfg.faultPcReport = .instrAddr then s.pc else s.pc + 2

/-- Every fault of a step surfaces the word that was fetched and where it was fetched from (60_exceptions.md R220, R227). The
model recomputes the word with the encoder, log 8; the pc of FetchOutOfRange is PC for both report settings, log 9. -/
def Obligations.FaultsNameWordAndAddress : Prop :=
  ∀ (s : State) (record : Fault), step s = .fault record →
    (record.word = none → record.pc = s.pc) ∧
    ∀ w, record.word = some w →
      w = s.peek s.pc.toNat ++ s.peek (s.pc.toNat + 1) ∧
      record.pc = if s.cfg.faultPcReport = .instrAddr then s.pc else s.pc + 2

/-- The code, word and info of every fault kind, and the load error's code 0 (60_exceptions.md R221 to R227, R229): only
FetchOutOfRange has no word, and the info is empty but for MemoryOutOfRange and KeyOutOfRange. The numbering is the spec's
own, decision D24, log 22. -/
def Obligations.FaultRecordParts : Prop :=
  ∀ (w pc : Word) (addr : Nat) (value : Byte),
    let parts := fun r : Fault => (r.code, r.word, r.info)
    parts (.unimplemented w pc) = (1, some w, .empty) ∧
    parts (.stackUnderflow w pc) = (2, some w, .empty) ∧
    parts (.stackOverflow w pc) = (3, some w, .empty) ∧
    parts (.fetchOutOfRange pc) = (4, none, .empty) ∧
    parts (.memoryOutOfRange w pc addr) = (5, some w, .addr addr) ∧
    parts (.keyOutOfRange w pc value) = (6, some w, .value value) ∧
    (LoadError.programTooLarge addr).code = 0

/-- A faulted core has no step (40_execution_cycle.md R110, decision D13; log 7). -/
def Obligations.FaultedCoreHasNoStep : Prop :=
  ∀ (s : State) (record : Fault), s.status = .faulted record → step s = .refused (.coreFaulted record)

/-- A faulting step tells the host its record and leaves the core faulted with that record for good; a step that does not
fault tells the host its `dirty` (60_exceptions.md R220, 40_execution_cycle.md R109). The rest of the record after a fault is
free, log 7. -/
def Obligations.HostSeesOutcomeAndFaultIsTerminal : Prop :=
  (∀ (s : State) (record : Fault), step s = .fault record →
    (hostStep s).1 = .fault record ∧ (hostStep s).2.status = .faulted record ∧
    hostStep (hostStep s).2 = (.noStep (.coreFaulted record), (hostStep s).2)) ∧
  (∀ s t : State, step s = .next t → hostStep s = (.ok t.dirty, t) ∧ t.status = .running)

/-- LRK is none after every step, whatever the step executed (40_execution_cycle.md R108). -/
def Obligations.LastReleasedKeyClearedByEveryStep : Prop := ∀ s t : State, step s = .next t → t.lrk = none

/-- The dirty result is true exactly for draw-sprite, and for clear-display when CLEAR_SETS_DIRTY says so
(40_execution_cycle.md R107, a parameter by decision D15). `dirty` in State is the model's choice, log 6. -/
def Obligations.DirtyExactlyForDrawSprite : Prop :=
  ∀ (s t : State) (i : Instr), decode (s.peek s.pc.toNat ++ s.peek (s.pc.toNat + 1)) = some i → step s = .next t →
    (t.dirty = true ↔ (∃ x y n, i = .drw x y n) ∨ (i = .cls ∧ s.cfg.clearSetsDirty = true))

/-- Every instruction is executed in every state, but for the one check some have of their own: the answer is the fault of
that check if it fails, else a next state, and never a refusal (60_exceptions.md R228, R232). The bounds check of the four
instructions that access the bytes from I names the lowest address above 0xFFF (43_index_memory.md R171); for an I already
above 0xFFF that is I, log 11. That these checks fault is the spec's decisions D3, D9 and D11, log 15. -/
def Obligations.OwnCheckAloneDecidesFault : Prop :=
  ∀ (i : Instr) (s : State),
    (∀ record, ownCheckFault i s = some record → exec i s = .fault record) ∧
    (ownCheckFault i s = none → ∃ t, exec i s = .next t)

/-! ## Invariants and whole-machine rules -/

/-- The invariant holds right after reset (10_state.md R28, R30, R32; I and ACC are 0 there by the spec's decision D14,
log 14). -/
def Obligations.ResetMeetsInvariant : Prop := Inv State.reset

/-- Every step keeps the invariant: memory canonical, I, PC and saved addresses bounded, the stack within its limit, ACC within
the period (10_state.md R27, R28, R30, R32). Canonical memory is the model's representation, log 10. -/
def Obligations.StepKeepsInvariant : Prop := ∀ s t : State, Inv s → step s = .next t → Inv t

/-- Under any interleaving of construct, press, release and step, with any parameters, every state of a running instance meets
the invariant, is running, and has the configuration it was constructed with (10_state.md R20, R21, R27 to R32). -/
def Obligations.ReachableStatesMeetInvariant : Prop :=
  ∀ (cfg : Config) (s : State), Reachable cfg s → Inv s ∧ s.status = .running ∧ s.cfg = cfg

/-- Who may write what (10_state.md R28, R29, R31 to R35, 20_memory.md R51): each piece of state other than the general
registers and PC changes only by the instructions the spec names as its writers; ACC, K, LRK, the status and the
configuration change by none. -/
def Obligations.OnlyNamedInstructionsWrite : Prop :=
  ∀ (i : Instr) (s t : State), exec i s = .next t →
    (t.stack ≠ s.stack → i = .ret ∨ ∃ nnn, i = .call nnn) ∧
    (t.i ≠ s.i → (∃ nnn, i = .ldI nnn) ∨ (∃ x, i = .addI x) ∨ (∃ x, i = .ldF x) ∨
      (s.cfg.loadstoreIndexIncrement = true ∧ ∃ x, i = .ldMemVx x ∨ i = .ldVxMem x)) ∧
    (t.dt ≠ s.dt → ∃ x, i = .ldDtVx x) ∧
    (t.st ≠ s.st → ∃ x, i = .ldStVx x) ∧
    (t.disp ≠ s.disp → i = .cls ∨ ∃ x y n, i = .drw x y n) ∧
    (t.mem ≠ s.mem → ∃ x, i = .ldB x ∨ i = .ldMemVx x) ∧
    t.acc = s.acc ∧ t.keys = s.keys ∧ t.lrk = s.lrk ∧ t.status = s.status ∧ t.cfg = s.cfg

/-- VF is written only by the flag writers of 10_state.md R25 and by instructions whose destination is VF. -/
def Obligations.OnlyNamedInstructionsWriteFlag : Prop :=
  ∀ (i : Instr) (s t : State), exec i s = .next t → t.reg flagReg ≠ s.reg flagReg →
    (∃ x y, i = .addReg x y ∨ i = .subReg x y ∨ i = .shrReg x y ∨ i = .subnReg x y ∨ i = .shlReg x y) ∨
    (∃ x y n, i = .drw x y n) ∨ (∃ x, i = .addI x) ∨
    (∃ nn, i = .ldImm 0xF nn ∨ i = .addImm 0xF nn ∨ i = .rnd 0xF nn) ∨
    (∃ y, i = .ldReg 0xF y ∨ i = .orReg 0xF y ∨ i = .andReg 0xF y ∨ i = .xorReg 0xF y) ∨
    i = .ldVxDt 0xF ∨ i = .ldVxK 0xF ∨ i = .ldVxMem 0xF

/-! ## Construction and the host interface -/

/-- Construction (70_reset_and_hazards.md R250, R251): a program above 3584 bytes is the load error; any other gives an
instance with every piece of state at its reset value and memory holding zero, the font and the program. I, ACC and LRK have their
values by the spec's decision D14, log 14. The reset values of
`dirty` and `draws` are the model's choice, log 5 and 6, and not stated here. -/
def Obligations.ConstructionSetsResetState : Prop :=
  ∀ (cfg : Config) (program : List Byte),
    (program.length > 3584 → construct cfg program = .error (.programTooLarge program.length)) ∧
    (program.length ≤ 3584 → ∃ s, construct cfg program = .ok s ∧
      (∀ a, a < 0x1000 → s.peek a =
        if 0x200 ≤ a then program.getD (a - 0x200) 0
        else if 0x050 ≤ a ∧ a < 0x0A0 then cfg.font.toList.getD (a - 0x050) 0 else 0) ∧
      (∀ x, s.reg x = 0) ∧ s.i = 0 ∧ s.pc = 0x200 ∧ s.stack = [] ∧ s.dt = 0 ∧ s.st = 0 ∧ s.acc = 0 ∧
      (∀ k : Fin 16, s.keys[k] = false) ∧ s.lrk = none ∧ (∀ (r : Fin 32) (c : Fin 64), s.disp[r][c] = false) ∧
      s.cfg = cfg ∧ s.status = .running)

/-- State.reset is the instance constructed with the default parameters and no program, and its first step reads 0x0000 and
faults at 0x200 (70_reset_and_hazards.md R250, R251). That reset stands for an empty program is the model's choice, log 12. -/
def Obligations.ResetIsEmptyConstruction : Prop :=
  construct Config.default [] = .ok State.reset ∧ step State.reset = .fault (.unimplemented 0x0000 0x200)

/-- press and release (45_timers_input.md R206, R207, R208): the key's state, LRK, and nothing else; an argument above 15 is
refused (the spec's decision D19, log 13). -/
def Obligations.HostKeyOperations : Prop :=
  ∀ (s : State) (key : Nat),
    (∀ h : key < 16,
      (∃ t, press key s = .next t ∧ t.keys[key] = true ∧ (∀ k : Fin 16, k.val ≠ key → t.keys[k] = s.keys[k]) ∧
        { t with keys := s.keys } = s) ∧
      (∃ t, release key s = .next t ∧ t.keys[key] = false ∧ (∀ k : Fin 16, k.val ≠ key → t.keys[k] = s.keys[k]) ∧
        t.lrk = some ⟨key, h⟩ ∧ { t with keys := s.keys, lrk := s.lrk } = s)) ∧
    (16 ≤ key → press key s = .refused (.notAKey key) ∧ release key s = .refused (.notAKey key))

/-- The read ports (60_exceptions.md R235, R236, 10_state.md R35): 2048 cells in row-major order, and ST > 0. -/
def Obligations.HostReadPorts : Prop :=
  ∀ s : State, (readDisplay s).length = 2048 ∧
    (∀ (r : Fin 32) (c : Fin 64), (readDisplay s)[r.val * 64 + c.val]? = some s.disp[r][c]) ∧
    (soundActive s = true ↔ s.st.toNat > 0)

/-! ## Control flow -/

/-- RET (41_control_flow.md R121): pops the last pushed address into PC; faults on an empty stack. -/
def Obligations.ReturnPopsOrFaults : Prop :=
  (∀ (s : State) (l : List Word) (a : Word), s.stack = l ++ [a] →
    ∃ t, exec .ret s = .next t ∧ t.pc = a ∧ t.stack = l ∧ Frame { pc := true, stack := true } s t) ∧
  (∀ s : State, s.stack = [] → exec .ret s = .fault (.stackUnderflow 0x00EE (faultPc s)))

/-- CALL nnn (41_control_flow.md R123): pushes PC and jumps; faults on a full stack, never when the limit is unbounded.
The bound is a parameter by decision D3; that a stack above the limit is full too is the model's choice, log 15. -/
def Obligations.CallPushesOrFaults : Prop :=
  ∀ (s : State) (nnn : Addr),
    ((∀ limit, s.cfg.stackLimit = some limit → s.stack.length < limit) →
      ∃ t, exec (.call nnn) s = .next t ∧ t.stack = s.stack ++ [s.pc] ∧ t.pc.toNat = nnn.toNat ∧
        Frame { pc := true, stack := true } s t) ∧
    (∀ limit, s.cfg.stackLimit = some limit → limit ≤ s.stack.length →
      exec (.call nnn) s = .fault (.stackOverflow (0x2#4 ++ nnn) (faultPc s)))

/-- A call and the return that finds the stack the call left restore PC to the word after the call and the stack to what it
was (41_control_flow.md R123, 95_test_vectors.md E3). -/
def Obligations.ReturnUndoesCall : Prop :=
  ∀ (s t u : State) (nnn : Addr), exec (.call nnn) s = .next t → u.stack = t.stack →
    ∃ r, exec .ret u = .next r ∧ r.pc = s.pc ∧ r.stack = s.stack

/-- JP nnn and JP V0, nnn (41_control_flow.md R122, R128): PC, and nothing else. That PC does not wrap to 12 bits is the
spec's decision D10, log 15. -/
def Obligations.JumpsSetProgramCounter : Prop :=
  ∀ (s : State) (nnn : Addr),
    (∃ t, exec (.jp nnn) s = .next t ∧ t.pc.toNat = nnn.toNat ∧ Frame { pc := true } s t) ∧
    (∃ t, exec (.jpV0 nnn) s = .next t ∧ t.pc.toNat = nnn.toNat + (s.reg 0).toNat ∧ Frame { pc := true } s t)

/-- SE and SNE, immediate and register (41_control_flow.md R124 to R127, R120): PC goes 2 further exactly when the condition
holds, and nothing else changes. -/
def Obligations.RegisterSkips : Prop :=
  ∀ (s : State) (x y : Reg) (nn : Byte),
    (∃ t, exec (.seImm x nn) s = .next t ∧ t.pc = (if s.reg x = nn then s.pc + 2 else s.pc) ∧ Frame { pc := true } s t) ∧
    (∃ t, exec (.sneImm x nn) s = .next t ∧ t.pc = (if s.reg x = nn then s.pc else s.pc + 2) ∧ Frame { pc := true } s t) ∧
    (∃ t, exec (.seReg x y) s = .next t ∧ t.pc = (if s.reg x = s.reg y then s.pc + 2 else s.pc) ∧
      Frame { pc := true } s t) ∧
    (∃ t, exec (.sneReg x y) s = .next t ∧ t.pc = (if s.reg x = s.reg y then s.pc else s.pc + 2) ∧
      Frame { pc := true } s t)

/-- A jump to itself runs for ever without a fault (41_control_flow.md R122, 40_execution_cycle.md R112). -/
def Obligations.SelfJumpRunsForever : Prop :=
  ∀ (s : State) (nnn : Addr) (k : Nat), s.status = .running → nnn.toNat < 0xFFF → s.pc.toNat = nnn.toNat →
    decode (s.peek s.pc.toNat ++ s.peek (s.pc.toNat + 1)) = some (.jp nnn) →
    SafeRun k s ∧ ∀ t, Sys2Proof.core.run k s = .next t → t.pc = s.pc ∧ t.v = s.v ∧ t.mem = s.mem ∧ t.disp = s.disp

/-! ## Registers and arithmetic -/

/-- LD Vx, nn and ADD Vx, nn (42_register_alu.md R142, R143): V[x] alone, so VF stays unless x = F. -/
def Obligations.ImmediateLoadAndAdd : Prop :=
  ∀ (s : State) (x : Reg) (nn : Byte),
    (∃ t, exec (.ldImm x nn) s = .next t ∧ t.reg x = nn ∧ Frame { regs := [x] } s t) ∧
    (∃ t, exec (.addImm x nn) s = .next t ∧ (t.reg x).toNat = ((s.reg x).toNat + nn.toNat) % 256 ∧
      Frame { regs := [x] } s t)

/-- LD, OR, AND and XOR Vx, Vy (42_register_alu.md R144 to R147): V[x] alone; VF is not reset. -/
def Obligations.AssignAndBitwise : Prop :=
  ∀ (s : State) (x y : Reg),
    (∃ t, exec (.ldReg x y) s = .next t ∧ t.reg x = s.reg y ∧ Frame { regs := [x] } s t) ∧
    (∃ t, exec (.orReg x y) s = .next t ∧ t.reg x = s.reg x ||| s.reg y ∧ Frame { regs := [x] } s t) ∧
    (∃ t, exec (.andReg x y) s = .next t ∧ t.reg x = s.reg x &&& s.reg y ∧ Frame { regs := [x] } s t) ∧
    (∃ t, exec (.xorReg x y) s = .next t ∧ t.reg x = s.reg x ^^^ s.reg y ∧ Frame { regs := [x] } s t)

/-- ADD Vx, Vy (42_register_alu.md R148, R141): the sum modulo 256 and the carry, in the order VF_DEST_ORDER sets when
x = F. -/
def Obligations.AddWithCarry : Prop :=
  ∀ (s : State) (x y : Reg), ∃ t, exec (.addReg x y) s = .next t ∧
    ResultAndFlag s t x (BitVec.ofNat 8 (((s.reg x).toNat + (s.reg y).toNat) % 256))
      (if (s.reg x).toNat + (s.reg y).toNat > 255 then 1 else 0) ∧
    Frame { regs := [x, flagReg] } s t

/-- SUB and SUBN Vx, Vy (42_register_alu.md R149, R151, R141): the difference modulo 256, and 1 when there is no borrow. -/
def Obligations.SubtractWithBorrow : Prop :=
  ∀ (s : State) (x y : Reg),
    (∃ t, exec (.subReg x y) s = .next t ∧
      ResultAndFlag s t x (BitVec.ofNat 8 (((s.reg x).toNat + 256 - (s.reg y).toNat) % 256))
        (if (s.reg x).toNat ≥ (s.reg y).toNat then 1 else 0) ∧
      Frame { regs := [x, flagReg] } s t) ∧
    (∃ t, exec (.subnReg x y) s = .next t ∧
      ResultAndFlag s t x (BitVec.ofNat 8 (((s.reg y).toNat + 256 - (s.reg x).toNat) % 256))
        (if (s.reg y).toNat ≥ (s.reg x).toNat then 1 else 0) ∧
      Frame { regs := [x, flagReg] } s t)

/-- SHR and SHL Vx, Vy (42_register_alu.md R150, R152, R141): Vy shifted by one, and the bit shifted out. -/
def Obligations.ShiftsTakeVy : Prop :=
  ∀ (s : State) (x y : Reg),
    (∃ t, exec (.shrReg x y) s = .next t ∧
      ResultAndFlag s t x (BitVec.ofNat 8 ((s.reg y).toNat / 2)) (BitVec.ofNat 8 ((s.reg y).toNat % 2)) ∧
      Frame { regs := [x, flagReg] } s t) ∧
    (∃ t, exec (.shlReg x y) s = .next t ∧
      ResultAndFlag s t x (BitVec.ofNat 8 (2 * (s.reg y).toNat % 256)) (BitVec.ofNat 8 ((s.reg y).toNat / 128)) ∧
      Frame { regs := [x, flagReg] } s t)

/-- RND Vx, nn (42_register_alu.md R153): one draw ANDed with nn, so 0 for nn = 0 whatever the draw. The draw is the free value
at the counter, which the instruction advances, log 5. -/
def Obligations.RandomAndMasksOneDraw : Prop :=
  ∀ (s : State) (x : Reg) (nn : Byte), ∃ t, exec (.rnd x nn) s = .next t ∧
    t.reg x = Config.randomByte s.draws &&& nn ∧ t.draws = s.draws + 1 ∧ (nn = 0 → t.reg x = 0) ∧
    (∀ b : Nat, nn.getLsbD b = false → (t.reg x).getLsbD b = false) ∧ Frame { regs := [x], draws := true } s t

/-! ## Index register and memory -/

/-- LD I, nnn and LD F, Vx (43_index_memory.md R170, R173): I alone; Vx is not reduced to its low nibble. -/
def Obligations.SetIndexAndFontAddress : Prop :=
  ∀ (s : State) (nnn : Addr) (x : Reg),
    (∃ t, exec (.ldI nnn) s = .next t ∧ t.i.toNat = nnn.toNat ∧ Frame { index := true } s t) ∧
    (∃ t, exec (.ldF x) s = .next t ∧ t.i.toNat = 0x050 + 5 * (s.reg x).toNat ∧ Frame { index := true } s t)

/-- ADD I, Vx (43_index_memory.md R172): wraps modulo 0x1000 and sets VF to 1 above 0xFFF, else leaves VF, by the spec's
decision D7, log 16. The bound on I is
part of the invariant (10_state.md R28). -/
def Obligations.AddToIndexWraps : Prop :=
  ∀ (s : State) (x : Reg), s.i.toNat ≤ 0x1000 → ∃ t, exec (.addI x) s = .next t ∧
    (s.i.toNat + (s.reg x).toNat > 0xFFF →
      t.i.toNat = (s.i.toNat + (s.reg x).toNat) % 0x1000 ∧ t.reg flagReg = 1 ∧
      Frame { regs := [flagReg], index := true } s t) ∧
    (s.i.toNat + (s.reg x).toNat ≤ 0xFFF →
      t.i.toNat = s.i.toNat + (s.reg x).toNat ∧ Frame { index := true } s t)

/-- LD B, Vx (43_index_memory.md R174): the three decimal digits at I, I+1, I+2, every other byte and register kept. The
fault is the spec's decision D9, log 15. -/
def Obligations.StoreDigits : Prop :=
  ∀ (s : State) (x : Reg),
    (s.mem.wf s.cfg.font = true → s.i.toNat + 2 ≤ 0xFFF →
      ∃ t, exec (.ldB x) s = .next t ∧
        (t.peek s.i.toNat).toNat = (s.reg x).toNat / 100 ∧
        (t.peek (s.i.toNat + 1)).toNat = (s.reg x).toNat / 10 % 10 ∧
        (t.peek (s.i.toNat + 2)).toNat = (s.reg x).toNat % 10 ∧
        Frame { stored := (s.i.toNat, 3) } s t) ∧
    (s.i.toNat + 2 > 0xFFF →
      exec (.ldB x) s = .fault (.memoryOutOfRange (0xF#4 ++ x ++ 0x33#8) (faultPc s) (max s.i.toNat 0x1000)))

/-- LD [I], Vx (43_index_memory.md R175): V0..Vx at I..I+x, every other byte and every register kept; I moves past the block
exactly when LOADSTORE_INDEX_INCREMENT says so (decision D4). The fault is the spec's decision D9, log 15. -/
def Obligations.RegisterDump : Prop :=
  ∀ (s : State) (x : Reg),
    (s.mem.wf s.cfg.font = true → s.i.toNat + x.toNat ≤ 0xFFF →
      ∃ t, exec (.ldMemVx x) s = .next t ∧
        (∀ k : Reg, k.toNat ≤ x.toNat → t.peek (s.i.toNat + k.toNat) = s.reg k) ∧
        t.i.toNat = (if s.cfg.loadstoreIndexIncrement then s.i.toNat + x.toNat + 1 else s.i.toNat) ∧
        Frame { index := true, stored := (s.i.toNat, x.toNat + 1) } s t) ∧
    (s.i.toNat + x.toNat > 0xFFF →
      exec (.ldMemVx x) s = .fault (.memoryOutOfRange (0xF#4 ++ x ++ 0x55#8) (faultPc s) (max s.i.toNat 0x1000)))

/-- LD Vx, [I] (43_index_memory.md R176): V0..Vx from I..I+x, the registers above x, all of memory and the rest kept; I moves
past the block exactly when LOADSTORE_INDEX_INCREMENT says so (decision D4). The fault is the spec's decision D9, log 15. -/
def Obligations.RegisterLoad : Prop :=
  ∀ (s : State) (x : Reg),
    (s.i.toNat + x.toNat ≤ 0xFFF →
      ∃ t, exec (.ldVxMem x) s = .next t ∧
        (∀ k : Reg, k.toNat ≤ x.toNat → t.reg k = s.peek (s.i.toNat + k.toNat)) ∧
        (∀ k : Reg, x.toNat < k.toNat → t.reg k = s.reg k) ∧
        t.i.toNat = (if s.cfg.loadstoreIndexIncrement then s.i.toNat + x.toNat + 1 else s.i.toNat) ∧
        Frame { regs := [0, 1, 2, 3, 4, 5, 6, 7, 8, 9, 10, 11, 12, 13, 14, 15], index := true } s t) ∧
    (s.i.toNat + x.toNat > 0xFFF →
      exec (.ldVxMem x) s = .fault (.memoryOutOfRange (0xF#4 ++ x ++ 0x65#8) (faultPc s) (max s.i.toNat 0x1000)))

/-! ## Display -/

/-- CLS (44_display.md R190): all 2048 cells false whatever they were, and nothing else. -/
def Obligations.ClearDisplay : Prop :=
  ∀ s : State, ∃ t, exec .cls s = .next t ∧ (∀ (r : Fin 32) (c : Fin 64), t.disp[r][c] = false) ∧
    t.dirty = s.cfg.clearSetsDirty ∧ Frame { display := true, dirty := true } s t

/-- DRW Vx, Vy, n (44_display.md R191, R192): every cell is XORed with the sprite's bit on it, wrapped and not clipped; VF
reports a cell going from set to unset, and otherwise is as DRAW_VF_NO_COLLISION says. The bit order is PRESUMED by the
spec, log 17; the fault is its decision D9, log 15. -/
def Obligations.DrawSpriteXorsCells : Prop :=
  ∀ (s : State) (x y : Reg) (n : Nibble),
    ((n ≠ 0 → s.i.toNat + n.toNat - 1 ≤ 0xFFF) →
      ∃ t, exec (.drw x y n) s = .next t ∧
        (∀ (r : Fin 32) (c : Fin 64),
          t.disp[r][c] = (s.disp[r][c] ^^ spriteCovers s (s.reg x).toNat (s.reg y).toNat n.toNat r c)) ∧
        (spriteCollides s (s.reg x).toNat (s.reg y).toNat n.toNat → t.reg flagReg = 1) ∧
        (¬ spriteCollides s (s.reg x).toNat (s.reg y).toNat n.toNat →
          t.reg flagReg = if s.cfg.drawVfNoCollision = .zero then 0 else s.reg flagReg) ∧
        t.dirty = true ∧ Frame { regs := [flagReg], display := true, dirty := true } s t) ∧
    (n ≠ 0 → s.i.toNat + n.toNat - 1 > 0xFFF →
      exec (.drw x y n) s = .fault (.memoryOutOfRange (0xD#4 ++ x ++ y ++ n) (faultPc s) (max s.i.toNat 0x1000)))

/-- Drawing the same sprite twice at the same place restores the whole display; where the affected cells were false and the
sprite has a 1 bit, the second draw sets VF to 1 (44_display.md R191, 95_test_vectors.md E5). The second state is any one that
kept what the draw reads. -/
def Obligations.DrawTwiceRestoresDisplay : Prop :=
  ∀ (s t u w : State) (x y : Reg) (n : Nibble), exec (.drw x y n) s = .next t →
    u.disp = t.disp → u.mem = s.mem → u.cfg = s.cfg → u.i = s.i → u.reg x = s.reg x → u.reg y = s.reg y →
    exec (.drw x y n) u = .next w →
    w.disp = s.disp ∧
    ((∀ (r : Fin 32) (c : Fin 64), spriteCovers s (s.reg x).toNat (s.reg y).toNat n.toNat r c = true →
        s.disp[r][c] = false) →
      (∃ (row : Fin 16) (b : Fin 8), row.val < n.toNat ∧ (s.peek (s.i.toNat + row.val)).getLsbD b.val = true) →
      w.reg flagReg = 1)

/-! ## Keys and timers -/

/-- SKP and SKNP (45_timers_input.md R200, R201): a skip on the state of the key V[x] names; above 15, KeyOutOfRange with that
value, by the spec's decision D11, log 15. -/
def Obligations.KeySkips : Prop :=
  ∀ (s : State) (x : Reg),
    (∀ h : (s.reg x).toNat < 16,
      (∃ t, exec (.skp x) s = .next t ∧ t.pc = (if s.keys[(s.reg x).toNat] = true then s.pc + 2 else s.pc) ∧
        Frame { pc := true } s t) ∧
      (∃ t, exec (.sknp x) s = .next t ∧ t.pc = (if s.keys[(s.reg x).toNat] = false then s.pc + 2 else s.pc) ∧
        Frame { pc := true } s t)) ∧
    ((s.reg x).toNat > 15 →
      exec (.skp x) s = .fault (.keyOutOfRange (0xE#4 ++ x ++ 0x9E#8) (faultPc s) (s.reg x)) ∧
      exec (.sknp x) s = .fault (.keyOutOfRange (0xE#4 ++ x ++ 0xA1#8) (faultPc s) (s.reg x)))

/-- LD Vx, DT, LD DT, Vx and LD ST, Vx (45_timers_input.md R202, R203, R204), with sound_active following ST at once. -/
def Obligations.TimerTransfers : Prop :=
  ∀ (s : State) (x : Reg),
    (∃ t, exec (.ldVxDt x) s = .next t ∧ t.reg x = s.dt ∧ Frame { regs := [x] } s t) ∧
    (∃ t, exec (.ldDtVx x) s = .next t ∧ t.dt = s.reg x ∧ Frame { delay := true } s t) ∧
    (∃ t, exec (.ldStVx x) s = .next t ∧ t.st = s.reg x ∧ soundActive t = decide ((s.reg x).toNat > 0) ∧
      Frame { sound := true } s t)

/-- LD Vx, K (45_timers_input.md R205): stores the released key and goes on, or takes PC back by 2 and changes nothing
else. -/
def Obligations.BlockForKeyRelease : Prop :=
  ∀ (s : State) (x : Reg),
    (∀ k : Fin 16, s.lrk = some k →
      ∃ t, exec (.ldVxK x) s = .next t ∧ (t.reg x).toNat = k.val ∧ Frame { regs := [x] } s t) ∧
    (s.lrk = none → ∃ t, exec (.ldVxK x) s = .next t ∧ t.pc = s.pc - 2 ∧ Frame { pc := true } s t)

/-- Waiting for a key with no release is an endless run of whole steps, never a fault: PC and the registers stay, and a later
release ends the wait in one step with the key in V[x] (45_timers_input.md R205, 70_reset_and_hazards.md R259,
93_implementation_defined.md U19). -/
def Obligations.KeyWaitHoldsUntilRelease : Prop :=
  ∀ (s : State) (x : Reg) (k : Nat), s.status = .running → s.lrk = none → s.pc.toNat + 1 ≤ 0xFFF →
    decode (s.peek s.pc.toNat ++ s.peek (s.pc.toNat + 1)) = some (.ldVxK x) →
    SafeRun k s ∧ ∀ t, Sys2Proof.core.run k s = .next t →
      t.pc = s.pc ∧ t.v = s.v ∧ t.mem = s.mem ∧
      ∀ key : Fin 16, ∃ u w, release key.val t = .next u ∧ step u = .next w ∧ (w.reg x).toNat = key.val ∧
        w.pc = s.pc + 2 ∧ w.lrk = none
end

