-- ==== Sys2Proof/Laws/State.lean ====
section
/-! SUPPORT. One lemma per field per update of State, so that no proof unfolds a record update. -/

namespace Sys2Proof.Machine.State

variable (s : State)

@[simp] theorem setReg_mem (x : Reg) (b : Byte) : (s.setReg x b).mem = s.mem := rfl
@[simp] theorem setReg_v (x : Reg) (b : Byte) : (s.setReg x b).v = s.v.set x.toNat b x.isLt := rfl
@[simp] theorem setReg_i (x : Reg) (b : Byte) : (s.setReg x b).i = s.i := rfl
@[simp] theorem setReg_pc (x : Reg) (b : Byte) : (s.setReg x b).pc = s.pc := rfl
@[simp] theorem setReg_stack (x : Reg) (b : Byte) : (s.setReg x b).stack = s.stack := rfl
@[simp] theorem setReg_dt (x : Reg) (b : Byte) : (s.setReg x b).dt = s.dt := rfl
@[simp] theorem setReg_st (x : Reg) (b : Byte) : (s.setReg x b).st = s.st := rfl
@[simp] theorem setReg_acc (x : Reg) (b : Byte) : (s.setReg x b).acc = s.acc := rfl
@[simp] theorem setReg_keys (x : Reg) (b : Byte) : (s.setReg x b).keys = s.keys := rfl
@[simp] theorem setReg_lrk (x : Reg) (b : Byte) : (s.setReg x b).lrk = s.lrk := rfl
@[simp] theorem setReg_disp (x : Reg) (b : Byte) : (s.setReg x b).disp = s.disp := rfl
@[simp] theorem setReg_status (x : Reg) (b : Byte) : (s.setReg x b).status = s.status := rfl
@[simp] theorem setReg_dirty (x : Reg) (b : Byte) : (s.setReg x b).dirty = s.dirty := rfl
@[simp] theorem setReg_draws (x : Reg) (b : Byte) : (s.setReg x b).draws = s.draws := rfl
@[simp] theorem setReg_cfg (x : Reg) (b : Byte) : (s.setReg x b).cfg = s.cfg := rfl

@[simp] theorem setRegs_mem (w : Vector Byte 16) : (s.setRegs w).mem = s.mem := rfl
@[simp] theorem setRegs_v (w : Vector Byte 16) : (s.setRegs w).v = w := rfl
@[simp] theorem setRegs_i (w : Vector Byte 16) : (s.setRegs w).i = s.i := rfl
@[simp] theorem setRegs_pc (w : Vector Byte 16) : (s.setRegs w).pc = s.pc := rfl
@[simp] theorem setRegs_stack (w : Vector Byte 16) : (s.setRegs w).stack = s.stack := rfl
@[simp] theorem setRegs_dt (w : Vector Byte 16) : (s.setRegs w).dt = s.dt := rfl
@[simp] theorem setRegs_st (w : Vector Byte 16) : (s.setRegs w).st = s.st := rfl
@[simp] theorem setRegs_acc (w : Vector Byte 16) : (s.setRegs w).acc = s.acc := rfl
@[simp] theorem setRegs_keys (w : Vector Byte 16) : (s.setRegs w).keys = s.keys := rfl
@[simp] theorem setRegs_lrk (w : Vector Byte 16) : (s.setRegs w).lrk = s.lrk := rfl
@[simp] theorem setRegs_disp (w : Vector Byte 16) : (s.setRegs w).disp = s.disp := rfl
@[simp] theorem setRegs_status (w : Vector Byte 16) : (s.setRegs w).status = s.status := rfl
@[simp] theorem setRegs_dirty (w : Vector Byte 16) : (s.setRegs w).dirty = s.dirty := rfl
@[simp] theorem setRegs_draws (w : Vector Byte 16) : (s.setRegs w).draws = s.draws := rfl
@[simp] theorem setRegs_cfg (w : Vector Byte 16) : (s.setRegs w).cfg = s.cfg := rfl

@[simp] theorem setIndex_mem (a : Word) : (s.setIndex a).mem = s.mem := rfl
@[simp] theorem setIndex_v (a : Word) : (s.setIndex a).v = s.v := rfl
@[simp] theorem setIndex_i (a : Word) : (s.setIndex a).i = a := rfl
@[simp] theorem setIndex_pc (a : Word) : (s.setIndex a).pc = s.pc := rfl
@[simp] theorem setIndex_stack (a : Word) : (s.setIndex a).stack = s.stack := rfl
@[simp] theorem setIndex_dt (a : Word) : (s.setIndex a).dt = s.dt := rfl
@[simp] theorem setIndex_st (a : Word) : (s.setIndex a).st = s.st := rfl
@[simp] theorem setIndex_acc (a : Word) : (s.setIndex a).acc = s.acc := rfl
@[simp] theorem setIndex_keys (a : Word) : (s.setIndex a).keys = s.keys := rfl
@[simp] theorem setIndex_lrk (a : Word) : (s.setIndex a).lrk = s.lrk := rfl
@[simp] theorem setIndex_disp (a : Word) : (s.setIndex a).disp = s.disp := rfl
@[simp] theorem setIndex_status (a : Word) : (s.setIndex a).status = s.status := rfl
@[simp] theorem setIndex_dirty (a : Word) : (s.setIndex a).dirty = s.dirty := rfl
@[simp] theorem setIndex_draws (a : Word) : (s.setIndex a).draws = s.draws := rfl
@[simp] theorem setIndex_cfg (a : Word) : (s.setIndex a).cfg = s.cfg := rfl

@[simp] theorem setPc_mem (a : Word) : (s.setPc a).mem = s.mem := rfl
@[simp] theorem setPc_v (a : Word) : (s.setPc a).v = s.v := rfl
@[simp] theorem setPc_i (a : Word) : (s.setPc a).i = s.i := rfl
@[simp] theorem setPc_pc (a : Word) : (s.setPc a).pc = a := rfl
@[simp] theorem setPc_stack (a : Word) : (s.setPc a).stack = s.stack := rfl
@[simp] theorem setPc_dt (a : Word) : (s.setPc a).dt = s.dt := rfl
@[simp] theorem setPc_st (a : Word) : (s.setPc a).st = s.st := rfl
@[simp] theorem setPc_acc (a : Word) : (s.setPc a).acc = s.acc := rfl
@[simp] theorem setPc_keys (a : Word) : (s.setPc a).keys = s.keys := rfl
@[simp] theorem setPc_lrk (a : Word) : (s.setPc a).lrk = s.lrk := rfl
@[simp] theorem setPc_disp (a : Word) : (s.setPc a).disp = s.disp := rfl
@[simp] theorem setPc_status (a : Word) : (s.setPc a).status = s.status := rfl
@[simp] theorem setPc_dirty (a : Word) : (s.setPc a).dirty = s.dirty := rfl
@[simp] theorem setPc_draws (a : Word) : (s.setPc a).draws = s.draws := rfl
@[simp] theorem setPc_cfg (a : Word) : (s.setPc a).cfg = s.cfg := rfl

@[simp] theorem setDelay_mem (b : Byte) : (s.setDelay b).mem = s.mem := rfl
@[simp] theorem setDelay_v (b : Byte) : (s.setDelay b).v = s.v := rfl
@[simp] theorem setDelay_i (b : Byte) : (s.setDelay b).i = s.i := rfl
@[simp] theorem setDelay_pc (b : Byte) : (s.setDelay b).pc = s.pc := rfl
@[simp] theorem setDelay_stack (b : Byte) : (s.setDelay b).stack = s.stack := rfl
@[simp] theorem setDelay_dt (b : Byte) : (s.setDelay b).dt = b := rfl
@[simp] theorem setDelay_st (b : Byte) : (s.setDelay b).st = s.st := rfl
@[simp] theorem setDelay_acc (b : Byte) : (s.setDelay b).acc = s.acc := rfl
@[simp] theorem setDelay_keys (b : Byte) : (s.setDelay b).keys = s.keys := rfl
@[simp] theorem setDelay_lrk (b : Byte) : (s.setDelay b).lrk = s.lrk := rfl
@[simp] theorem setDelay_disp (b : Byte) : (s.setDelay b).disp = s.disp := rfl
@[simp] theorem setDelay_status (b : Byte) : (s.setDelay b).status = s.status := rfl
@[simp] theorem setDelay_dirty (b : Byte) : (s.setDelay b).dirty = s.dirty := rfl
@[simp] theorem setDelay_draws (b : Byte) : (s.setDelay b).draws = s.draws := rfl
@[simp] theorem setDelay_cfg (b : Byte) : (s.setDelay b).cfg = s.cfg := rfl

@[simp] theorem setSound_mem (b : Byte) : (s.setSound b).mem = s.mem := rfl
@[simp] theorem setSound_v (b : Byte) : (s.setSound b).v = s.v := rfl
@[simp] theorem setSound_i (b : Byte) : (s.setSound b).i = s.i := rfl
@[simp] theorem setSound_pc (b : Byte) : (s.setSound b).pc = s.pc := rfl
@[simp] theorem setSound_stack (b : Byte) : (s.setSound b).stack = s.stack := rfl
@[simp] theorem setSound_dt (b : Byte) : (s.setSound b).dt = s.dt := rfl
@[simp] theorem setSound_st (b : Byte) : (s.setSound b).st = b := rfl
@[simp] theorem setSound_acc (b : Byte) : (s.setSound b).acc = s.acc := rfl
@[simp] theorem setSound_keys (b : Byte) : (s.setSound b).keys = s.keys := rfl
@[simp] theorem setSound_lrk (b : Byte) : (s.setSound b).lrk = s.lrk := rfl
@[simp] theorem setSound_disp (b : Byte) : (s.setSound b).disp = s.disp := rfl
@[simp] theorem setSound_status (b : Byte) : (s.setSound b).status = s.status := rfl
@[simp] theorem setSound_dirty (b : Byte) : (s.setSound b).dirty = s.dirty := rfl
@[simp] theorem setSound_draws (b : Byte) : (s.setSound b).draws = s.draws := rfl
@[simp] theorem setSound_cfg (b : Byte) : (s.setSound b).cfg = s.cfg := rfl

@[simp] theorem setDisplay_mem (d : Display) : (s.setDisplay d).mem = s.mem := rfl
@[simp] theorem setDisplay_v (d : Display) : (s.setDisplay d).v = s.v := rfl
@[simp] theorem setDisplay_i (d : Display) : (s.setDisplay d).i = s.i := rfl
@[simp] theorem setDisplay_pc (d : Display) : (s.setDisplay d).pc = s.pc := rfl
@[simp] theorem setDisplay_stack (d : Display) : (s.setDisplay d).stack = s.stack := rfl
@[simp] theorem setDisplay_dt (d : Display) : (s.setDisplay d).dt = s.dt := rfl
@[simp] theorem setDisplay_st (d : Display) : (s.setDisplay d).st = s.st := rfl
@[simp] theorem setDisplay_acc (d : Display) : (s.setDisplay d).acc = s.acc := rfl
@[simp] theorem setDisplay_keys (d : Display) : (s.setDisplay d).keys = s.keys := rfl
@[simp] theorem setDisplay_lrk (d : Display) : (s.setDisplay d).lrk = s.lrk := rfl
@[simp] theorem setDisplay_disp (d : Display) : (s.setDisplay d).disp = d := rfl
@[simp] theorem setDisplay_status (d : Display) : (s.setDisplay d).status = s.status := rfl
@[simp] theorem setDisplay_dirty (d : Display) : (s.setDisplay d).dirty = s.dirty := rfl
@[simp] theorem setDisplay_draws (d : Display) : (s.setDisplay d).draws = s.draws := rfl
@[simp] theorem setDisplay_cfg (d : Display) : (s.setDisplay d).cfg = s.cfg := rfl

@[simp] theorem setDirty_mem (c : Bool) : (s.setDirty c).mem = s.mem := rfl
@[simp] theorem setDirty_v (c : Bool) : (s.setDirty c).v = s.v := rfl
@[simp] theorem setDirty_i (c : Bool) : (s.setDirty c).i = s.i := rfl
@[simp] theorem setDirty_pc (c : Bool) : (s.setDirty c).pc = s.pc := rfl
@[simp] theorem setDirty_stack (c : Bool) : (s.setDirty c).stack = s.stack := rfl
@[simp] theorem setDirty_dt (c : Bool) : (s.setDirty c).dt = s.dt := rfl
@[simp] theorem setDirty_st (c : Bool) : (s.setDirty c).st = s.st := rfl
@[simp] theorem setDirty_acc (c : Bool) : (s.setDirty c).acc = s.acc := rfl
@[simp] theorem setDirty_keys (c : Bool) : (s.setDirty c).keys = s.keys := rfl
@[simp] theorem setDirty_lrk (c : Bool) : (s.setDirty c).lrk = s.lrk := rfl
@[simp] theorem setDirty_disp (c : Bool) : (s.setDirty c).disp = s.disp := rfl
@[simp] theorem setDirty_status (c : Bool) : (s.setDirty c).status = s.status := rfl
@[simp] theorem setDirty_dirty (c : Bool) : (s.setDirty c).dirty = c := rfl
@[simp] theorem setDirty_draws (c : Bool) : (s.setDirty c).draws = s.draws := rfl
@[simp] theorem setDirty_cfg (c : Bool) : (s.setDirty c).cfg = s.cfg := rfl

@[simp] theorem setStack_mem (l : List Word) : (s.setStack l).mem = s.mem := rfl
@[simp] theorem setStack_v (l : List Word) : (s.setStack l).v = s.v := rfl
@[simp] theorem setStack_i (l : List Word) : (s.setStack l).i = s.i := rfl
@[simp] theorem setStack_pc (l : List Word) : (s.setStack l).pc = s.pc := rfl
@[simp] theorem setStack_stack (l : List Word) : (s.setStack l).stack = l := rfl
@[simp] theorem setStack_dt (l : List Word) : (s.setStack l).dt = s.dt := rfl
@[simp] theorem setStack_st (l : List Word) : (s.setStack l).st = s.st := rfl
@[simp] theorem setStack_acc (l : List Word) : (s.setStack l).acc = s.acc := rfl
@[simp] theorem setStack_keys (l : List Word) : (s.setStack l).keys = s.keys := rfl
@[simp] theorem setStack_lrk (l : List Word) : (s.setStack l).lrk = s.lrk := rfl
@[simp] theorem setStack_disp (l : List Word) : (s.setStack l).disp = s.disp := rfl
@[simp] theorem setStack_status (l : List Word) : (s.setStack l).status = s.status := rfl
@[simp] theorem setStack_dirty (l : List Word) : (s.setStack l).dirty = s.dirty := rfl
@[simp] theorem setStack_draws (l : List Word) : (s.setStack l).draws = s.draws := rfl
@[simp] theorem setStack_cfg (l : List Word) : (s.setStack l).cfg = s.cfg := rfl

@[simp] theorem push_mem (a : Word) : (s.push a).mem = s.mem := rfl
@[simp] theorem push_v (a : Word) : (s.push a).v = s.v := rfl
@[simp] theorem push_i (a : Word) : (s.push a).i = s.i := rfl
@[simp] theorem push_pc (a : Word) : (s.push a).pc = s.pc := rfl
@[simp] theorem push_stack (a : Word) : (s.push a).stack = s.stack ++ [a] := rfl
@[simp] theorem push_dt (a : Word) : (s.push a).dt = s.dt := rfl
@[simp] theorem push_st (a : Word) : (s.push a).st = s.st := rfl
@[simp] theorem push_acc (a : Word) : (s.push a).acc = s.acc := rfl
@[simp] theorem push_keys (a : Word) : (s.push a).keys = s.keys := rfl
@[simp] theorem push_lrk (a : Word) : (s.push a).lrk = s.lrk := rfl
@[simp] theorem push_disp (a : Word) : (s.push a).disp = s.disp := rfl
@[simp] theorem push_status (a : Word) : (s.push a).status = s.status := rfl
@[simp] theorem push_dirty (a : Word) : (s.push a).dirty = s.dirty := rfl
@[simp] theorem push_draws (a : Word) : (s.push a).draws = s.draws := rfl
@[simp] theorem push_cfg (a : Word) : (s.push a).cfg = s.cfg := rfl

@[simp] theorem dropTop_mem : (s.dropTop).mem = s.mem := rfl
@[simp] theorem dropTop_v : (s.dropTop).v = s.v := rfl
@[simp] theorem dropTop_i : (s.dropTop).i = s.i := rfl
@[simp] theorem dropTop_pc : (s.dropTop).pc = s.pc := rfl
@[simp] theorem dropTop_stack : (s.dropTop).stack = s.stack.dropLast := rfl
@[simp] theorem dropTop_dt : (s.dropTop).dt = s.dt := rfl
@[simp] theorem dropTop_st : (s.dropTop).st = s.st := rfl
@[simp] theorem dropTop_acc : (s.dropTop).acc = s.acc := rfl
@[simp] theorem dropTop_keys : (s.dropTop).keys = s.keys := rfl
@[simp] theorem dropTop_lrk : (s.dropTop).lrk = s.lrk := rfl
@[simp] theorem dropTop_disp : (s.dropTop).disp = s.disp := rfl
@[simp] theorem dropTop_status : (s.dropTop).status = s.status := rfl
@[simp] theorem dropTop_dirty : (s.dropTop).dirty = s.dirty := rfl
@[simp] theorem dropTop_draws : (s.dropTop).draws = s.draws := rfl
@[simp] theorem dropTop_cfg : (s.dropTop).cfg = s.cfg := rfl

@[simp] theorem skip_mem : (s.skip).mem = s.mem := rfl
@[simp] theorem skip_v : (s.skip).v = s.v := rfl
@[simp] theorem skip_i : (s.skip).i = s.i := rfl
@[simp] theorem skip_pc : (s.skip).pc = s.pc + 2 := rfl
@[simp] theorem skip_stack : (s.skip).stack = s.stack := rfl
@[simp] theorem skip_dt : (s.skip).dt = s.dt := rfl
@[simp] theorem skip_st : (s.skip).st = s.st := rfl
@[simp] theorem skip_acc : (s.skip).acc = s.acc := rfl
@[simp] theorem skip_keys : (s.skip).keys = s.keys := rfl
@[simp] theorem skip_lrk : (s.skip).lrk = s.lrk := rfl
@[simp] theorem skip_disp : (s.skip).disp = s.disp := rfl
@[simp] theorem skip_status : (s.skip).status = s.status := rfl
@[simp] theorem skip_dirty : (s.skip).dirty = s.dirty := rfl
@[simp] theorem skip_draws : (s.skip).draws = s.draws := rfl
@[simp] theorem skip_cfg : (s.skip).cfg = s.cfg := rfl

@[simp] theorem rewind_mem : (s.rewind).mem = s.mem := rfl
@[simp] theorem rewind_v : (s.rewind).v = s.v := rfl
@[simp] theorem rewind_i : (s.rewind).i = s.i := rfl
@[simp] theorem rewind_pc : (s.rewind).pc = s.pc - 2 := rfl
@[simp] theorem rewind_stack : (s.rewind).stack = s.stack := rfl
@[simp] theorem rewind_dt : (s.rewind).dt = s.dt := rfl
@[simp] theorem rewind_st : (s.rewind).st = s.st := rfl
@[simp] theorem rewind_acc : (s.rewind).acc = s.acc := rfl
@[simp] theorem rewind_keys : (s.rewind).keys = s.keys := rfl
@[simp] theorem rewind_lrk : (s.rewind).lrk = s.lrk := rfl
@[simp] theorem rewind_disp : (s.rewind).disp = s.disp := rfl
@[simp] theorem rewind_status : (s.rewind).status = s.status := rfl
@[simp] theorem rewind_dirty : (s.rewind).dirty = s.dirty := rfl
@[simp] theorem rewind_draws : (s.rewind).draws = s.draws := rfl
@[simp] theorem rewind_cfg : (s.rewind).cfg = s.cfg := rfl

@[simp] theorem countDraw_mem : (s.countDraw).mem = s.mem := rfl
@[simp] theorem countDraw_v : (s.countDraw).v = s.v := rfl
@[simp] theorem countDraw_i : (s.countDraw).i = s.i := rfl
@[simp] theorem countDraw_pc : (s.countDraw).pc = s.pc := rfl
@[simp] theorem countDraw_stack : (s.countDraw).stack = s.stack := rfl
@[simp] theorem countDraw_dt : (s.countDraw).dt = s.dt := rfl
@[simp] theorem countDraw_st : (s.countDraw).st = s.st := rfl
@[simp] theorem countDraw_acc : (s.countDraw).acc = s.acc := rfl
@[simp] theorem countDraw_keys : (s.countDraw).keys = s.keys := rfl
@[simp] theorem countDraw_lrk : (s.countDraw).lrk = s.lrk := rfl
@[simp] theorem countDraw_disp : (s.countDraw).disp = s.disp := rfl
@[simp] theorem countDraw_status : (s.countDraw).status = s.status := rfl
@[simp] theorem countDraw_dirty : (s.countDraw).dirty = s.dirty := rfl
@[simp] theorem countDraw_draws : (s.countDraw).draws = s.draws + 1 := rfl
@[simp] theorem countDraw_cfg : (s.countDraw).cfg = s.cfg := rfl

@[simp] theorem pokeBytes_mem (a : Nat) (bs : List Byte) : (s.pokeBytes a bs).mem = s.mem.writeBytes s.cfg.font a bs := rfl
@[simp] theorem pokeBytes_v (a : Nat) (bs : List Byte) : (s.pokeBytes a bs).v = s.v := rfl
@[simp] theorem pokeBytes_i (a : Nat) (bs : List Byte) : (s.pokeBytes a bs).i = s.i := rfl
@[simp] theorem pokeBytes_pc (a : Nat) (bs : List Byte) : (s.pokeBytes a bs).pc = s.pc := rfl
@[simp] theorem pokeBytes_stack (a : Nat) (bs : List Byte) : (s.pokeBytes a bs).stack = s.stack := rfl
@[simp] theorem pokeBytes_dt (a : Nat) (bs : List Byte) : (s.pokeBytes a bs).dt = s.dt := rfl
@[simp] theorem pokeBytes_st (a : Nat) (bs : List Byte) : (s.pokeBytes a bs).st = s.st := rfl
@[simp] theorem pokeBytes_acc (a : Nat) (bs : List Byte) : (s.pokeBytes a bs).acc = s.acc := rfl
@[simp] theorem pokeBytes_keys (a : Nat) (bs : List Byte) : (s.pokeBytes a bs).keys = s.keys := rfl
@[simp] theorem pokeBytes_lrk (a : Nat) (bs : List Byte) : (s.pokeBytes a bs).lrk = s.lrk := rfl
@[simp] theorem pokeBytes_disp (a : Nat) (bs : List Byte) : (s.pokeBytes a bs).disp = s.disp := rfl
@[simp] theorem pokeBytes_status (a : Nat) (bs : List Byte) : (s.pokeBytes a bs).status = s.status := rfl
@[simp] theorem pokeBytes_dirty (a : Nat) (bs : List Byte) : (s.pokeBytes a bs).dirty = s.dirty := rfl
@[simp] theorem pokeBytes_draws (a : Nat) (bs : List Byte) : (s.pokeBytes a bs).draws = s.draws := rfl
@[simp] theorem pokeBytes_cfg (a : Nat) (bs : List Byte) : (s.pokeBytes a bs).cfg = s.cfg := rfl

@[simp] theorem enterExecute_mem : (enterExecute s).mem = s.mem := rfl
@[simp] theorem enterExecute_v : (enterExecute s).v = s.v := rfl
@[simp] theorem enterExecute_i : (enterExecute s).i = s.i := rfl
@[simp] theorem enterExecute_pc : (enterExecute s).pc = s.pc + 2 := rfl
@[simp] theorem enterExecute_stack : (enterExecute s).stack = s.stack := rfl
@[simp] theorem enterExecute_dt : (enterExecute s).dt = s.dt := rfl
@[simp] theorem enterExecute_st : (enterExecute s).st = s.st := rfl
@[simp] theorem enterExecute_acc : (enterExecute s).acc = s.acc := rfl
@[simp] theorem enterExecute_keys : (enterExecute s).keys = s.keys := rfl
@[simp] theorem enterExecute_lrk : (enterExecute s).lrk = s.lrk := rfl
@[simp] theorem enterExecute_disp : (enterExecute s).disp = s.disp := rfl
@[simp] theorem enterExecute_status : (enterExecute s).status = s.status := rfl
@[simp] theorem enterExecute_dirty : (enterExecute s).dirty = false := rfl
@[simp] theorem enterExecute_draws : (enterExecute s).draws = s.draws := rfl
@[simp] theorem enterExecute_cfg : (enterExecute s).cfg = s.cfg := rfl

@[simp] theorem cleanup_mem : (cleanup s).mem = s.mem := rfl
@[simp] theorem cleanup_v : (cleanup s).v = s.v := rfl
@[simp] theorem cleanup_i : (cleanup s).i = s.i := rfl
@[simp] theorem cleanup_pc : (cleanup s).pc = s.pc := rfl
@[simp] theorem cleanup_stack : (cleanup s).stack = s.stack := rfl
@[simp] theorem cleanup_dt : (cleanup s).dt = s.dt := rfl
@[simp] theorem cleanup_st : (cleanup s).st = s.st := rfl
@[simp] theorem cleanup_acc : (cleanup s).acc = s.acc := rfl
@[simp] theorem cleanup_keys : (cleanup s).keys = s.keys := rfl
@[simp] theorem cleanup_lrk : (cleanup s).lrk = none := rfl
@[simp] theorem cleanup_disp : (cleanup s).disp = s.disp := rfl
@[simp] theorem cleanup_status : (cleanup s).status = s.status := rfl
@[simp] theorem cleanup_dirty : (cleanup s).dirty = s.dirty := rfl
@[simp] theorem cleanup_draws : (cleanup s).draws = s.draws := rfl
@[simp] theorem cleanup_cfg : (cleanup s).cfg = s.cfg := rfl

end Sys2Proof.Machine.State
end

