-- ==== Sys2Proof/Laws/Memory.lean ====
section
/-! SUPPORT. The laws of memory: what a write changes and leaves, and that it keeps the canonical form (log 10). -/

namespace Sys2Proof.Machine.Memory

variable (font : Font)

/-- The canonical form from a higher address is one from a lower address. -/
theorem canonicalFrom_mono {lo lo' : Nat} (h : lo' ≤ lo) {m : Memory} (hm : canonicalFrom font lo m = true) :
    canonicalFrom font lo' m = true := by
  cases m with
  | nil => rfl
  | cons c m =>
    simp only [canonicalFrom, Bool.and_eq_true, decide_eq_true_eq] at hm ⊢
    exact ⟨⟨⟨h.trans hm.1.1.1, hm.1.1.2⟩, hm.1.2⟩, hm.2⟩

/-- A canonical memory lists no address below its bound. -/
theorem lookup_below {lo a : Nat} {m : Memory} (hm : canonicalFrom font lo m = true) (h : a < lo) : lookup m a = none := by
  induction m generalizing lo with
  | nil => rfl
  | cons c m ih =>
    simp only [canonicalFrom, Bool.and_eq_true, decide_eq_true_eq] at hm
    have hne : a ≠ c.1 := by omega
    simp only [lookup, hne, if_false]
    exact ih hm.2 (by omega)

/-- A write lists the written byte, or nothing where the byte is the unlisted one; every other address is as before. -/
theorem lookup_write {lo a : Nat} {m : Memory} {v : Byte} (hm : canonicalFrom font lo m = true) (b : Nat) :
    lookup (write font m a v) b = if b = a then (if v = unlisted font a then none else some v) else lookup m b := by
  induction m generalizing lo with
  | nil => by_cases hv : v = unlisted font a <;> simp [write, lookup, hv]
  | cons c m ih =>
    simp only [canonicalFrom, Bool.and_eq_true, decide_eq_true_eq] at hm
    have ih' := ih hm.2
    have hbelow : ∀ d, d ≤ c.1 → lookup m d = none := fun d hd => lookup_below font hm.2 (by omega)
    rcases lt_trichotomy c.1 a with hlt | heq | hgt
    · simp only [write, hlt, if_true, lookup, ih']
      by_cases hb : b = c.1
      · have : b ≠ a := by omega
        simp [hb, hlt.ne]
      · simp [hb]
    · subst heq
      by_cases hv : v = unlisted font c.1 <;> by_cases hb : b = c.1 <;>
        simp [write, lookup, hv, hb, hbelow]
    · have h1 : ¬ c.1 < a := by omega
      have h2 : ¬ c.1 = a := by omega
      by_cases hv : v = unlisted font a <;> by_cases hb : b = a <;>
        simp [write, lookup, h1, h2, hv, hb, hbelow, hgt.le, hgt.ne]

/-- A read after a write gives the written byte at its address and the old byte everywhere else (20_memory.md R60). -/
theorem read_write {lo a : Nat} {m : Memory} {v : Byte} (hm : canonicalFrom font lo m = true) (b : Nat) :
    read font (write font m a v) b = if b = a then v else read font m b := by
  unfold read
  rw [lookup_write font hm]
  by_cases hb : b = a
  · by_cases hv : v = unlisted font a <;> simp [hb, hv]
  · simp [hb]

/-- A write inside the address space keeps the canonical form. -/
theorem canonicalFrom_write {lo a : Nat} {m : Memory} {v : Byte} (hm : canonicalFrom font lo m = true) (hlo : lo ≤ a)
    (ha : a < memSize) : canonicalFrom font lo (write font m a v) = true := by
  induction m generalizing lo with
  | nil => by_cases hv : v = unlisted font a <;> simp_all [write, canonicalFrom]
  | cons c m ih =>
    have hm' := hm
    simp only [canonicalFrom, Bool.and_eq_true, decide_eq_true_eq] at hm'
    rcases lt_trichotomy c.1 a with hlt | heq | hgt
    · simp only [write, hlt, if_true, canonicalFrom, Bool.and_eq_true, decide_eq_true_eq]
      exact ⟨hm'.1, ih hm'.2 hlt⟩
    · subst heq
      by_cases hv : v = unlisted font c.1
      · simpa [write, hv] using canonicalFrom_mono font (by omega) hm'.2
      · simpa [write, hv, canonicalFrom, hlo, hm'.2] using hm'.1.1.2
    · have h1 : ¬ c.1 < a := by omega
      have h2 : ¬ c.1 = a := by omega
      by_cases hv : v = unlisted font a
      · simpa [write, h1, h2, hv] using hm
      · simp only [write, h1, h2, hv, if_false, canonicalFrom, Bool.and_eq_true, decide_eq_true_eq]
        exact ⟨⟨⟨hlo, ha⟩, hv⟩, ⟨⟨hgt, hm'.1.1.2⟩, hm'.1.2⟩, hm'.2⟩

/-- A write inside the address space keeps memory well formed. -/
theorem wf_write {a : Nat} {m : Memory} {v : Byte} (hm : wf font m = true) (ha : a < memSize) :
    wf font (write font m a v) = true := canonicalFrom_write font hm (Nat.zero_le a) ha

/-- Writing several bytes inside the address space keeps memory well formed. -/
theorem wf_writeBytes {m : Memory} {a : Nat} {bs : List Byte} (hm : wf font m = true) (h : a + bs.length ≤ memSize) :
    wf font (writeBytes font m a bs) = true := by
  induction bs generalizing m a with
  | nil => exact hm
  | cons b bs ih =>
    simp only [List.length_cons] at h
    exact ih (wf_write font hm (by omega)) (by omega)

/-- Writing several bytes: byte k is read back at a + k, and every other address is as before (20_memory.md R53, R60). -/
theorem read_writeBytes {m : Memory} {a : Nat} {bs : List Byte} (hm : wf font m = true) (h : a + bs.length ≤ memSize)
    (b : Nat) : read font (writeBytes font m a bs) b = if a ≤ b then bs.getD (b - a) (read font m b) else read font m b := by
  induction bs generalizing m a with
  | nil => simp [writeBytes]
  | cons c bs ih =>
    simp only [List.length_cons] at h
    rw [writeBytes, ih (wf_write font hm (by omega)) (by omega), read_write font hm]
    rcases lt_trichotomy b a with hlt | rfl | hgt
    · simp [show ¬ a + 1 ≤ b by omega, show ¬ a ≤ b by omega, hlt.ne]
    · simp
    · obtain ⟨k, rfl⟩ : ∃ k, b = a + 1 + k := ⟨b - (a + 1), by omega⟩
      simp [show a + 1 + k - a = k + 1 by omega, show a ≤ a + 1 + k by omega, show a + 1 + k ≠ a by omega]

/-- Reading `n` bytes gives `n` bytes. -/
@[simp] theorem length_readBytes (m : Memory) (a n : Nat) : (readBytes font m a n).length = n := by
  induction n generalizing a with
  | zero => rfl
  | succ n ih => simp [readBytes, ih]

/-- Byte k of a multi-byte read is the byte at a + k (20_memory.md R53). -/
theorem getElem?_readBytes (m : Memory) (a n k : Nat) :
    (readBytes font m a n)[k]? = if k < n then some (read font m (a + k)) else none := by
  induction n generalizing a k with
  | zero => simp [readBytes]
  | succ n ih =>
    cases k with
    | zero => simp [readBytes]
    | succ k => simp [readBytes, ih, show a + 1 + k = a + (k + 1) by omega]

end Sys2Proof.Machine.Memory

namespace Sys2Proof.Machine

/-- A state's byte after a store of several bytes (20_memory.md R60). -/
theorem State.peek_pokeBytes {s : State} {a : Nat} {bs : List Byte} (hm : s.mem.wf s.cfg.font = true)
    (h : a + bs.length ≤ memSize) (b : Nat) :
    (s.pokeBytes a bs).peek b = if a ≤ b then bs.getD (b - a) (s.peek b) else s.peek b :=
  Memory.read_writeBytes s.cfg.font hm h b

/-- An access is in range exactly when it is empty or ends at or below 0xFFF (43_index_memory.md R171). -/
theorem outOfRange_eq_none {a count : Nat} : outOfRange a count = none ↔ count = 0 ∨ a + count ≤ memSize := by
  unfold outOfRange; split <;> simp_all

/-- Otherwise the reported address is the first above 0xFFF (43_index_memory.md R171). -/
theorem outOfRange_eq_some {a count addr : Nat} :
    outOfRange a count = some addr ↔ count ≠ 0 ∧ memSize < a + count ∧ addr = max a memSize := by
  unfold outOfRange
  split
  · simp only [reduceCtorEq, false_iff]; omega
  · simp only [Option.some.injEq]; omega

end Sys2Proof.Machine
end

