-- ==== Sys2Proof/Laws/Display.lean ====
section
/-! SUPPORT. What a draw does to every cell, and when it reports a collision (44_display.md R191, R193). -/

namespace Sys2Proof.Machine

/-- How many rows below row coordinate `cy` a display row lies, wrapped. -/
def rowOffset (cy : Nat) (r : Fin 32) : Nat := (r.val + 32 - cy % 32) % 32

/-- How many columns right of column coordinate `cx` a display column lies, wrapped. -/
def colOffset (cx : Nat) (c : Fin 64) : Nat := (c.val + 64 - cx % 64) % 64

/-- Sprite column `col` meets exactly the display column at that offset, so a row meets no cell twice (44_display.md R193). -/
theorem eq_wrapCol_iff (cx col : Nat) (h : col < 64) (c : Fin 64) : c = wrapCol (cx + col) ↔ colOffset cx c = col := by
  have := c.isLt
  rw [Fin.ext_iff]
  simp only [wrapCol, colOffset]
  omega

/-- The sprite's first row meets exactly the display row at offset 0. -/
theorem eq_wrapRow_iff (cy : Nat) (r : Fin 32) : r = wrapRow cy ↔ rowOffset cy r = 0 := by
  have := r.isLt
  rw [Fin.ext_iff]
  simp only [wrapRow, rowOffset]
  omega

/-- From the next row coordinate, every other display row is one row nearer. -/
theorem rowOffset_succ (cy : Nat) (r : Fin 32) :
    rowOffset (cy + 1) r = if rowOffset cy r = 0 then 31 else rowOffset cy r - 1 := by
  have := r.isLt
  by_cases h : rowOffset cy r = 0
  · rw [if_pos h]; unfold rowOffset at *; omega
  · rw [if_neg h]; unfold rowOffset at *; omega

/-- One sprite bit XORs its cell and leaves every other (44_display.md R191). -/
theorem drawCell_disp (bit : Bool) (r r' : Fin 32) (c c' : Fin 64) (d : Drawing) :
    (drawCell bit r c d).1[r'][c'] = (d.1[r'][c'] ^^ (decide (r' = r ∧ c' = c) && bit)) := by
  unfold drawCell
  by_cases hr : r = r'
  · subst hr
    by_cases hc : c = c'
    · subst hc; simp
    · have hc' : ¬ c.val = c'.val := fun e => hc (Fin.ext e)
      simp [hc', show ¬ c' = c from fun e => hc e.symm]
  · have hr' : ¬ r.val = r'.val := fun e => hr (Fin.ext e)
    simp [hr', show ¬ r' = r from fun e => hr e.symm]

/-- One sprite bit reports a collision exactly when it is 1 and its cell was set (44_display.md R191). -/
theorem drawCell_collided (bit : Bool) (r : Fin 32) (c : Fin 64) (d : Drawing) :
    (drawCell bit r c d).2 = (d.2 || (d.1[r][c] && bit)) := rfl

/-- The first `m` columns of a sprite row. -/
def drawColumns (b : Byte) (row cx m : Nat) (d : Drawing) : Drawing :=
  (List.range m).foldl (fun d col => drawCell (spriteBit b col) (wrapRow row) (wrapCol (cx + col)) d) d

theorem drawColumns_succ (b : Byte) (row cx m : Nat) (d : Drawing) :
    drawColumns b row cx (m + 1) d =
      drawCell (spriteBit b m) (wrapRow row) (wrapCol (cx + m)) (drawColumns b row cx m d) := by
  simp [drawColumns, List.range_succ]

/-- The first columns of a sprite row XOR the cells they meet (44_display.md R191). -/
theorem drawColumns_disp (b : Byte) (row cx m : Nat) (hm : m ≤ 8) (d : Drawing) (r : Fin 32) (c : Fin 64) :
    (drawColumns b row cx m d).1[r][c] =
      (d.1[r][c] ^^ (decide (rowOffset row r = 0 ∧ colOffset cx c < m) && spriteBit b (colOffset cx c))) := by
  induction m with
  | zero => simp [drawColumns]
  | succ m ih =>
    rw [drawColumns_succ, drawCell_disp, ih (by omega)]
    simp only [eq_wrapRow_iff, eq_wrapCol_iff _ _ (show m < 64 by omega)]
    by_cases hr : rowOffset row r = 0
    · rcases lt_trichotomy (colOffset cx c) m with h | h | h
      · simp [hr, h, h.ne, show colOffset cx c < m + 1 by omega]
      · simp [hr, h]
      · simp [hr, show ¬ colOffset cx c = m by omega, show ¬ colOffset cx c < m by omega,
          show ¬ colOffset cx c < m + 1 by omega]
    · simp [hr]

/-- The first columns of a sprite row collide where a 1 bit meets a cell that was set before the row (44_display.md R191). -/
theorem drawColumns_collided (b : Byte) (row cx m : Nat) (hm : m ≤ 8) (d : Drawing) :
    (drawColumns b row cx m d).2 = true ↔ d.2 = true ∨
      ∃ c, d.1[wrapRow row][c] = true ∧ colOffset cx c < m ∧ spriteBit b (colOffset cx c) = true := by
  induction m with
  | zero => simp [drawColumns]
  | succ m ih =>
    have hcell := (eq_wrapCol_iff cx m (by omega) (wrapCol (cx + m))).1 rfl
    rw [drawColumns_succ, drawCell_collided, drawColumns_disp _ _ _ _ (by omega), hcell]
    simp only [lt_irrefl, and_false, decide_false, Bool.false_and, Bool.xor_false, Bool.or_eq_true, Bool.and_eq_true,
      ih (by omega)]
    constructor
    · rintro ((h | ⟨c, h1, h2, h3⟩) | ⟨h1, h2⟩)
      · exact .inl h
      · exact .inr ⟨c, h1, by omega, h3⟩
      · exact .inr ⟨_, h1, by omega, by rwa [hcell]⟩
    · rintro (h | ⟨c, h1, h2, h3⟩)
      · exact .inl (.inl h)
      · rcases Nat.lt_succ_iff_lt_or_eq.1 h2 with h | h
        · exact .inl (.inr ⟨c, h1, h, h3⟩)
        · obtain rfl := (eq_wrapCol_iff cx m (by omega) c).2 h
          exact .inr ⟨h1, by rwa [h] at h3⟩

/-- The sprite's bit on a cell, for sprite rows given as a list (44_display.md R191, R192). -/
def rowsCover (bs : List Byte) (cy cx : Nat) (r : Fin 32) (c : Fin 64) : Bool :=
  decide (rowOffset cy r < bs.length) && decide (colOffset cx c < 8) &&
    spriteBit (bs.getD (rowOffset cy r) 0) (colOffset cx c)

/-- A sprite of fewer than 32 rows XORs exactly its bits into the display (44_display.md R191, R193). -/
theorem drawRows_disp (cx : Nat) (bs : List Byte) (hbs : bs.length < 32) (cy : Nat) (d : Drawing) (r : Fin 32)
    (c : Fin 64) : (drawRows cx bs cy d).1[r][c] = (d.1[r][c] ^^ rowsCover bs cy cx r c) := by
  induction bs generalizing cy d with
  | nil => simp [drawRows, rowsCover]
  | cons b bs ih =>
    simp only [List.length_cons] at hbs
    have hrow := drawColumns_disp b cy cx 8 le_rfl d r c
    rw [drawRows, ih (by omega), show drawRow b cy cx d = drawColumns b cy cx 8 d from rfl, hrow]
    unfold rowsCover
    rw [rowOffset_succ]
    by_cases h0 : rowOffset cy r = 0
    · simp [h0, show ¬ 31 < bs.length by omega]
    · obtain ⟨k, hk⟩ := Nat.exists_eq_succ_of_ne_zero h0
      simp [hk]

/-- A sprite of fewer than 32 rows collides exactly where one of its bits meets a cell that was set (44_display.md R191). -/
theorem drawRows_collided (cx : Nat) (bs : List Byte) (hbs : bs.length < 32) (cy : Nat) (d : Drawing) :
    (drawRows cx bs cy d).2 = true ↔ d.2 = true ∨ ∃ r c, d.1[r][c] = true ∧ rowsCover bs cy cx r c = true := by
  induction bs generalizing cy d with
  | nil => simp [drawRows, rowsCover]
  | cons b bs ih =>
    simp only [List.length_cons] at hbs
    rw [drawRows, ih (by omega), show drawRow b cy cx d = drawColumns b cy cx 8 d from rfl,
      drawColumns_collided _ _ _ _ le_rfl]
    simp only [drawColumns_disp b cy cx 8 le_rfl]
    have hstep : ∀ (r : Fin 32) (c : Fin 64), rowsCover (b :: bs) cy cx r c =
        if rowOffset cy r = 0 then decide (colOffset cx c < 8) && spriteBit b (colOffset cx c)
        else rowsCover bs (cy + 1) cx r c := by
      intro r c
      unfold rowsCover
      rw [rowOffset_succ]
      by_cases h0 : rowOffset cy r = 0
      · simp [h0]
      · obtain ⟨k, hk⟩ := Nat.exists_eq_succ_of_ne_zero h0
        simp [hk]
    have hnot : ∀ (r : Fin 32) (c : Fin 64), rowOffset cy r = 0 → rowsCover bs (cy + 1) cx r c = false := by
      intro r c h0
      unfold rowsCover
      simp [rowOffset_succ, h0, show ¬ 31 < bs.length by omega]
    constructor
    · rintro ((h | ⟨c, h1, h2, h3⟩) | ⟨r, c, h1, h2⟩)
      · exact .inl h
      · exact .inr ⟨_, c, h1, by simp [hstep, (eq_wrapRow_iff cy _).1 rfl, h2, h3]⟩
      · have h0 : ¬ rowOffset cy r = 0 := fun h0 => by simp [hnot r c h0] at h2
        exact .inr ⟨r, c, by simpa [h0] using h1, by simpa [hstep, h0] using h2⟩
    · rintro (h | ⟨r, c, h1, h2⟩)
      · exact .inl (.inl h)
      · by_cases h0 : rowOffset cy r = 0
        · obtain rfl := (eq_wrapRow_iff cy r).2 h0
          simp only [hstep, h0, if_true, Bool.and_eq_true, decide_eq_true_eq] at h2
          exact .inl (.inr ⟨c, h1, h2.1, h2.2⟩)
        · exact .inr ⟨r, c, by simpa [h0] using h1, by simpa [hstep, h0] using h2⟩

/-- The rows of a sprite cover what the sprite at I covers (44_display.md R191). -/
theorem rowsCover_spriteRows (s : State) (cx cy : Nat) (n : Nibble) (r : Fin 32) (c : Fin 64) :
    rowsCover (spriteRows s n) cy cx r c = spriteCovers s cx cy n.toNat r c := by
  unfold rowsCover spriteCovers spriteRows State.peekBytes
  simp only [Memory.length_readBytes, List.getD_eq_getElem?_getD, Memory.getElem?_readBytes, spriteBit, State.peek, rowOffset,
    colOffset]
  by_cases h : (r.val + 32 - cy % 32) % 32 < n.toNat
  · simp only [h, if_true, Option.getD_some]; rfl
  · simp only [h, if_false, decide_false, Bool.false_and]

/-- The display after a draw: every cell XORed with the sprite's bit on it (44_display.md R191). -/
theorem drawSprite_disp (s : State) (x y : Reg) (n : Nibble) (r : Fin 32) (c : Fin 64) :
    (drawSprite s x y n).1[r][c] =
      (s.disp[r][c] ^^ spriteCovers s (s.reg x).toNat (s.reg y).toNat n.toNat r c) := by
  have hn : (spriteRows s n).length < 32 := by
    have := n.isLt
    simp only [spriteRows, State.peekBytes, Memory.length_readBytes]; omega
  rw [drawSprite, drawRows_disp _ _ hn, rowsCover_spriteRows]

/-- The collision report of a draw (44_display.md R191). -/
theorem drawSprite_collided (s : State) (x y : Reg) (n : Nibble) :
    (drawSprite s x y n).2 = true ↔ spriteCollides s (s.reg x).toNat (s.reg y).toNat n.toNat := by
  have hn : (spriteRows s n).length < 32 := by
    have := n.isLt
    simp only [spriteRows, State.peekBytes, Memory.length_readBytes]; omega
  rw [drawSprite, drawRows_collided _ _ hn]
  simp only [rowsCover_spriteRows, Bool.false_eq_true, false_or, spriteCollides]

end Sys2Proof.Machine
end

