-- ==== Sys2Proof/Laws/Encoding.lean ====
section
/-! SUPPORT. The fields of a word built from fields, for each format of 30_encoding.md R72, and a word rebuilt from its
fields. -/

namespace Sys2Proof

/-- `op` of the ADDR format -/
@[simp] theorem fieldOp_addr (o : BitVec 4) (a : Addr) : fieldOp (o ++ a) = o := by
  ext i hi
  simp only [fieldOp, BitVec.getElem_extractLsb', BitVec.getLsbD_append]
  interval_cases i <;> simp [BitVec.getLsbD_eq_getElem]

/-- `nnn` of the ADDR format -/
@[simp] theorem fieldNNN_addr (o : BitVec 4) (a : Addr) : fieldNNN (o ++ a) = a := by
  ext i hi
  simp only [fieldNNN, BitVec.getElem_extractLsb', BitVec.getLsbD_append]
  interval_cases i <;> simp [BitVec.getLsbD_eq_getElem]

/-- `op` of the XNN and XS formats -/
@[simp] theorem fieldOp_xnn (o x : BitVec 4) (b : Byte) : fieldOp (o ++ x ++ b) = o := by
  ext i hi
  simp only [fieldOp, BitVec.getElem_extractLsb', BitVec.getLsbD_append]
  interval_cases i <;> simp [BitVec.getLsbD_eq_getElem]

/-- `x` of the XNN and XS formats -/
@[simp] theorem fieldX_xnn (o x : BitVec 4) (b : Byte) : fieldX (o ++ x ++ b) = x := by
  ext i hi
  simp only [fieldX, BitVec.getElem_extractLsb', BitVec.getLsbD_append]
  interval_cases i <;> simp [BitVec.getLsbD_eq_getElem]

/-- `nn` of the XNN and XS formats -/
@[simp] theorem fieldNN_xnn (o x : BitVec 4) (b : Byte) : fieldNN (o ++ x ++ b) = b := by
  ext i hi
  simp only [fieldNN, BitVec.getElem_extractLsb', BitVec.getLsbD_append]
  interval_cases i <;> simp [BitVec.getLsbD_eq_getElem]

/-- `op` of the XY0, XYS and XYN formats -/
@[simp] theorem fieldOp_xyn (o x y n : BitVec 4) : fieldOp (o ++ x ++ y ++ n) = o := by
  ext i hi
  simp only [fieldOp, BitVec.getElem_extractLsb', BitVec.getLsbD_append]
  interval_cases i <;> simp [BitVec.getLsbD_eq_getElem]

/-- `x` of the XY0, XYS and XYN formats -/
@[simp] theorem fieldX_xyn (o x y n : BitVec 4) : fieldX (o ++ x ++ y ++ n) = x := by
  ext i hi
  simp only [fieldX, BitVec.getElem_extractLsb', BitVec.getLsbD_append]
  interval_cases i <;> simp [BitVec.getLsbD_eq_getElem]

/-- `y` of the XY0, XYS and XYN formats -/
@[simp] theorem fieldY_xyn (o x y n : BitVec 4) : fieldY (o ++ x ++ y ++ n) = y := by
  ext i hi
  simp only [fieldY, BitVec.getElem_extractLsb', BitVec.getLsbD_append]
  interval_cases i <;> simp [BitVec.getLsbD_eq_getElem]

/-- `n` of the XY0, XYS and XYN formats -/
@[simp] theorem fieldN_xyn (o x y n : BitVec 4) : fieldN (o ++ x ++ y ++ n) = n := by
  ext i hi
  simp only [fieldN, BitVec.getElem_extractLsb', BitVec.getLsbD_append]
  interval_cases i <;> simp [BitVec.getLsbD_eq_getElem]

/-- Every word is its fields put together (30_encoding.md R71). -/
theorem word_of_fields_addr (w : Word) : fieldOp w ++ fieldNNN w = w := by
  ext i hi
  simp only [fieldOp, fieldNNN, BitVec.getElem_append, BitVec.getElem_extractLsb']
  interval_cases i <;> simp [BitVec.getLsbD_eq_getElem]

/-- Every word is its fields put together (30_encoding.md R71). -/
theorem word_of_fields_xnn (w : Word) : fieldOp w ++ fieldX w ++ fieldNN w = w := by
  ext i hi
  simp only [fieldOp, fieldX, fieldNN, BitVec.getElem_append, BitVec.getElem_extractLsb']
  interval_cases i <;> simp [BitVec.getLsbD_eq_getElem]

/-- Every word is its fields put together (30_encoding.md R71). -/
theorem word_of_fields_xyn (w : Word) : fieldOp w ++ fieldX w ++ fieldY w ++ fieldN w = w := by
  ext i hi
  simp only [fieldOp, fieldX, fieldY, fieldN, BitVec.getElem_append, BitVec.getElem_extractLsb']
  interval_cases i <;> simp [BitVec.getLsbD_eq_getElem]

/-- The mask 0xF000 keeps `op` (30_encoding.md R93). -/
theorem and_opMask (w : Word) : w &&& 0xF000#16 = fieldOp w ++ 0#12 := by
  apply BitVec.eq_of_getLsbD_eq
  intro i hi
  simp only [fieldOp, BitVec.getLsbD_and, BitVec.getLsbD_append, BitVec.getLsbD_extractLsb']
  interval_cases i <;> simp

/-- The mask 0xF00F keeps `op` and `n` (30_encoding.md R93). -/
theorem and_opNMask (w : Word) : w &&& 0xF00F#16 = fieldOp w ++ 0#8 ++ fieldN w := by
  apply BitVec.eq_of_getLsbD_eq
  intro i hi
  simp only [fieldOp, fieldN, BitVec.getLsbD_and, BitVec.getLsbD_append, BitVec.getLsbD_extractLsb']
  interval_cases i <;> simp

/-- The mask 0xF0FF keeps `op` and `nn` (30_encoding.md R93). -/
theorem and_opNNMask (w : Word) : w &&& 0xF0FF#16 = fieldOp w ++ 0#4 ++ fieldNN w := by
  apply BitVec.eq_of_getLsbD_eq
  intro i hi
  simp only [fieldOp, fieldNN, BitVec.getLsbD_and, BitVec.getLsbD_append, BitVec.getLsbD_extractLsb']
  interval_cases i <;> simp

/-- Every word is its two bytes put together (20_memory.md R53). -/
theorem word_of_bytes (w : Word) : w.extractLsb' 8 8 ++ w.extractLsb' 0 8 = w := by
  ext i hi
  simp only [BitVec.getElem_append, BitVec.getElem_extractLsb']
  interval_cases i <;> simp [BitVec.getLsbD_eq_getElem]

/-- The bytes memory stores of a word make the word again (20_memory.md R53). -/
@[simp] theorem wordOfBytes_bytesOfWord (w : Word) : wordOfBytes (w.extractLsb' 8 8) (w.extractLsb' 0 8) = w :=
  word_of_bytes w

end Sys2Proof
end

