-- ==== Sys2Proof/Laws/Registers.lean ====
section
/-! SUPPORT. What the register and flag operations do to every register and every other field. -/

namespace Sys2Proof.Machine

/-- A register write is read back, and leaves every other register (10_state.md R22: no banks or aliases). -/
theorem State.reg_setReg (s : State) (x y : Reg) (b : Byte) : (s.setReg x b).reg y = if y = x then b else s.reg y := by
  unfold State.reg State.setReg
  simp only [Vector.getElem_set]
  by_cases h : y = x
  · simp [h]
  · have : x.toNat ≠ y.toNat := fun e => h (BitVec.eq_of_toNat_eq e.symm)
    simp [h, this]

@[simp] theorem State.reg_setReg_self (s : State) (x : Reg) (b : Byte) : (s.setReg x b).reg x = b := by
  simp [State.reg_setReg]

/-- The registers of a state are those of its register file. -/
theorem State.reg_of_v {s t : State} (h : t.v = s.v) (x : Reg) : t.reg x = s.reg x := by
  simp [State.reg, h]

/-- A state with the same memory and font reads the same bytes. -/
theorem State.peek_of_mem {s t : State} (hm : t.mem = s.mem) (hc : t.cfg = s.cfg) (a : Nat) : t.peek a = s.peek a := by
  simp [State.peek, hm, hc]

/-- A state with the same memory and font reads the same sequences of bytes. -/
theorem State.peekBytes_of_mem {s t : State} (hm : t.mem = s.mem) (hc : t.cfg = s.cfg) (a n : Nat) :
    t.peekBytes a n = s.peekBytes a n := by
  simp [State.peekBytes, hm, hc]

/-- `write_result_and_flag` is two register writes, in one of two orders (42_register_alu.md R141). -/
theorem State.writeResultAndFlag_cases (s : State) (x : Reg) (r f : Byte) :
    (s.cfg.vfDestOrder = .flagLast ∧ s.writeResultAndFlag x r f = (s.setReg x r).setReg flagReg f) ∨
    (s.cfg.vfDestOrder = .resultLast ∧ s.writeResultAndFlag x r f = (s.setReg flagReg f).setReg x r) := by
  unfold State.writeResultAndFlag State.setFlag
  cases h : s.cfg.vfDestOrder <;> simp

/-- `write_result_and_flag` changes nothing but the register file. -/
theorem State.writeResultAndFlag_eq (s : State) (x : Reg) (r f : Byte) :
    s.writeResultAndFlag x r f = s.setRegs (s.writeResultAndFlag x r f).v := by
  rcases s.writeResultAndFlag_cases x r f with ⟨-, h⟩ | ⟨-, h⟩ <;> rw [h] <;> rfl

/-- The collision report changes nothing but the register file (44_display.md R191). -/
theorem State.setCollision_eq (s : State) (c : Bool) : s.setCollision c = s.setRegs (s.setCollision c).v := by
  unfold State.setCollision State.setFlag
  cases c <;> cases s.cfg.drawVfNoCollision <;> rfl

/-- The registers after a collision report (44_display.md R191). -/
theorem State.reg_setCollision (s : State) (c : Bool) (y : Reg) :
    (s.setCollision c).reg y =
      if y = flagReg ∧ (c = true ∨ s.cfg.drawVfNoCollision = .zero) then (if c then 1 else 0) else s.reg y := by
  unfold State.setCollision State.setFlag
  cases c <;> cases h : s.cfg.drawVfNoCollision <;> simp [State.reg_setReg]

/-- The increment of I changes nothing but I, and I only under LOADSTORE_INDEX_INCREMENT (43_index_memory.md R175). -/
theorem State.advanceIndex_eq (s : State) (x : Reg) : s.advanceIndex x = s.setIndex (s.advanceIndex x).i := by
  unfold State.advanceIndex
  split <;> rfl

/-- I after a register dump or load of a block that ends inside memory (43_index_memory.md R175, R176). -/
theorem State.advanceIndex_i {s : State} {x : Reg} (h : s.i.toNat + x.toNat ≤ 0xFFF) :
    (s.advanceIndex x).i.toNat = if s.cfg.loadstoreIndexIncrement then s.i.toNat + x.toNat + 1 else s.i.toNat := by
  unfold State.advanceIndex
  split
  · have := x.isLt
    simp only [State.setIndex_i, BitVec.toNat_add, BitVec.toNat_setWidth]
    have h1 : (1 : Word).toNat = 1 := rfl
    omega
  · rfl

/-- A load of bytes into V0, V1, .. from register k on: register j takes byte j − k if there is one (43_index_memory.md
R176). -/
theorem getElem_loadRegs (bs : List Byte) (k : Nat) (v : Vector Byte 16) (j : Nat) (hj : j < 16) :
    (loadRegs bs k v)[j] = if k ≤ j then bs.getD (j - k) v[j] else v[j] := by
  induction bs generalizing k v with
  | nil => simp [loadRegs]
  | cons b bs ih =>
    rw [loadRegs, ih, Vector.getElem_setIfInBounds]
    rcases lt_trichotomy j k with h | rfl | h
    · simp [show ¬ k + 1 ≤ j by omega, show ¬ k ≤ j by omega, h.ne']
    · simp
    · obtain ⟨d, rfl⟩ : ∃ d, j = k + 1 + d := ⟨j - (k + 1), by omega⟩
      simp [show k + 1 + d - k = d + 1 by omega, show k ≤ k + 1 + d by omega, show k ≠ k + 1 + d by omega]

/-- V0..Vx as a list: byte k is V[k] (43_index_memory.md R175). -/
theorem getD_blockValues (s : State) (x k : Reg) (h : k.toNat ≤ x.toNat) (d : Byte) :
    (blockValues s x).getD k.toNat d = s.reg k := by
  have hk : k.toNat < 16 := k.isLt
  simp [blockValues, blockLength, State.reg, show k.toNat < x.toNat + 1 by omega, List.getD_eq_getElem?_getD, hk]

/-- The block V0..Vx has x + 1 registers (43_index_memory.md R175). -/
@[simp] theorem length_blockValues (s : State) (x : Reg) : (blockValues s x).length = x.toNat + 1 := by
  have := x.isLt
  simp [blockValues, blockLength]; omega

end Sys2Proof.Machine
end

