-- ==== Sys2Proof/Laws/Step.lean ====
section
/-! SUPPORT. What the tick, the fetch, the shared answers and the step can do, each said once. -/

namespace Sys2Proof.Machine

/-! The tick writes ACC, DT and ST only (40_execution_cycle.md R101). -/

section Tick

variable (s : State)

@[simp] theorem tick_mem : (tick s).mem = s.mem := by unfold tick; split <;> rfl
@[simp] theorem tick_v : (tick s).v = s.v := by unfold tick; split <;> rfl
@[simp] theorem tick_i : (tick s).i = s.i := by unfold tick; split <;> rfl
@[simp] theorem tick_pc : (tick s).pc = s.pc := by unfold tick; split <;> rfl
@[simp] theorem tick_stack : (tick s).stack = s.stack := by unfold tick; split <;> rfl
@[simp] theorem tick_keys : (tick s).keys = s.keys := by unfold tick; split <;> rfl
@[simp] theorem tick_lrk : (tick s).lrk = s.lrk := by unfold tick; split <;> rfl
@[simp] theorem tick_disp : (tick s).disp = s.disp := by unfold tick; split <;> rfl
@[simp] theorem tick_status : (tick s).status = s.status := by unfold tick; split <;> rfl
@[simp] theorem tick_dirty : (tick s).dirty = s.dirty := by unfold tick; split <;> rfl
@[simp] theorem tick_draws : (tick s).draws = s.draws := by unfold tick; split <;> rfl
@[simp] theorem tick_cfg : (tick s).cfg = s.cfg := by unfold tick; split <;> rfl

/-- ACC after a tick: it counts, and starts again past the period (40_execution_cycle.md R101). -/
theorem tick_acc : (tick s).acc = if s.acc + 1 > s.cfg.speed / 60 then 0 else s.acc + 1 := by
  unfold tick; split <;> simp_all

/-- ACC never stands above the period's quotient after a tick (10_state.md R32). -/
theorem tick_acc_le : (tick s).acc ≤ s.cfg.speed / 60 := by
  rw [tick_acc]; split <;> omega

/-- A timer counts down to 0 (40_execution_cycle.md R101). -/
theorem toNat_countDown (b : Byte) : (countDown b).toNat = b.toNat - 1 := by
  unfold countDown
  split
  · simp_all
  · next h =>
    have h0 : b.toNat ≠ 0 := fun e => h (BitVec.eq_of_toNat_eq e)
    have h1 : (1 : Byte).toNat = 1 := rfl
    rw [BitVec.toNat_sub, h1]
    omega

end Tick

/-- A fetch inside memory gives the two bytes at PC, the first one high (20_memory.md R53, 40_execution_cycle.md R103). -/
theorem fetch_of_le {s : State} (h : s.pc.toNat + 1 ≤ 0xFFF) :
    fetch s = some (s.peek s.pc.toNat ++ s.peek (s.pc.toNat + 1)) := by
  simp only [fetch, memSize, show s.pc.toNat + 1 < 0x1000 by omega, if_true]; rfl

/-- Exactly a PC with PC + 1 above 0xFFF has no word (60_exceptions.md R223). -/
theorem fetch_eq_none {s : State} : fetch s = none ↔ s.pc.toNat + 1 > 0xFFF := by
  unfold fetch; split <;> simp_all; omega

/-- A fetched word is the two bytes at PC, inside memory (40_execution_cycle.md R103). -/
theorem fetch_eq_some {s : State} {w : Word} :
    fetch s = some w ↔ s.pc.toNat + 1 ≤ 0xFFF ∧ w = s.peek s.pc.toNat ++ s.peek (s.pc.toNat + 1) := by
  by_cases h : s.pc.toNat + 1 ≤ 0xFFF
  · rw [fetch_of_le h]; simp [h, eq_comm]
  · simp [fetch_eq_none.2 (by omega : s.pc.toNat + 1 > 0xFFF), h]

/-- The tick changes neither PC nor memory, so fetch reads the same word before and after it. -/
@[simp] theorem fetch_tick (s : State) : fetch (tick s) = fetch s := by
  simp [fetch, State.peek]

/-- The pc a fault reports in the execute phase, in the words claims use (60_exceptions.md R227). -/
theorem reportPc_eq_faultPc (s : State) : s.reportPc = faultPc s := by
  unfold State.reportPc faultPc
  cases s.cfg.faultPcReport <;> simp

/-! The shared answers. -/

/-- A bounds check that passes goes on; one that fails raises MemoryOutOfRange at the lowest address above 0xFFF
(43_index_memory.md R171). -/
theorem checkBounds_cases (i : Instr) (count : Nat) (s next : State) :
    ((count = 0 ∨ s.i.toNat + count ≤ 0x1000) ∧ checkBounds i count s next = .next next) ∨
    (count ≠ 0 ∧ 0x1000 < s.i.toNat + count ∧
      checkBounds i count s next = .fault (.memoryOutOfRange (encode i) (faultPc s) (max s.i.toNat 0x1000))) := by
  unfold checkBounds raise
  rw [reportPc_eq_faultPc]
  rcases h : outOfRange s.i.toNat count with _ | addr
  · exact .inl ⟨outOfRange_eq_none.1 h, rfl⟩
  · obtain ⟨h1, h2, rfl⟩ := outOfRange_eq_some.1 h
    exact .inr ⟨h1, h2, rfl⟩

/-- A bounds check answers a next state only where it passes, and then the one it was given. -/
theorem checkBounds_next {i : Instr} {count : Nat} {s n t : State} (h : checkBounds i count s n = .next t) :
    (count = 0 ∨ s.i.toNat + count ≤ 0x1000) ∧ t = n := by
  rcases checkBounds_cases i count s n with ⟨h1, h2⟩ | ⟨-, -, h2⟩
  · rw [h2] at h; cases h; exact ⟨h1, rfl⟩
  · rw [h2] at h; cases h

/-- A key skip with a key in range skips or does not; with a value above 15 it raises KeyOutOfRange (45_timers_input.md R200,
R201). -/
theorem skipIfKey_cases (i : Instr) (x : Reg) (pressed : Bool) (s : State) :
    (∃ h : (s.reg x).toNat < 16,
      skipIfKey i x pressed s = .next (if s.keys[(s.reg x).toNat] = pressed then s.skip else s)) ∨
    (15 < (s.reg x).toNat ∧ skipIfKey i x pressed s = .fault (.keyOutOfRange (encode i) (faultPc s) (s.reg x))) := by
  unfold skipIfKey raise keyOperand
  rw [reportPc_eq_faultPc]
  by_cases h : (s.reg x).toNat < 16
  · exact .inl ⟨h, by simp [h]⟩
  · exact .inr ⟨by omega, by simp [h]⟩

/-- A step that answers a next state ran one decoded instruction between the tick and the cleanup (40_execution_cycle.md
R100). -/
theorem step_next_cases {s t : State} (h : step s = .next t) :
    s.status = .running ∧ ∃ w i u, fetch s = some w ∧ decode w = some i ∧ exec i (enterExecute (tick s)) = .next u ∧
      t = cleanup u := by
  unfold step at h
  rw [fetch_tick] at h
  cases hs : s.status with
  | faulted record => simp [hs] at h
  | running =>
    refine ⟨rfl, ?_⟩
    simp only [hs] at h
    cases hf : fetch s with
    | none => simp [hf] at h
    | some w =>
      simp only [hf] at h
      cases hd : decode w with
      | none => simp [hd] at h
      | some i =>
        simp only [hd] at h
        cases he : exec i (enterExecute (tick s)) with
        | next u =>
          simp only [he, endStep, Host.Outcome.next.injEq] at h
          exact ⟨w, i, u, rfl, hd, he, h.symm⟩
        | fault r => simp [he, endStep] at h
        | refused r => simp [he, endStep] at h

/-- A running core whose word decodes steps by executing it (40_execution_cycle.md R100). -/
theorem step_of_decode {s : State} {w : Word} {i : Instr} (hs : s.status = .running) (hf : fetch s = some w)
    (hd : decode w = some i) : step s = endStep (exec i (enterExecute (tick s))) := by
  simp [step, hs, hf, hd]

/-- A running core has exactly one fault or next state from fetch, decode or execute (60_exceptions.md R228). -/
theorem step_fault_cases {s : State} {record : Fault} (h : step s = .fault record) :
    s.status = .running ∧
    ((fetch s = none ∧ record = .fetchOutOfRange s.pc) ∨
     (∃ w, fetch s = some w ∧ decode w = none ∧ record = .unimplemented w (enterExecute (tick s)).reportPc) ∨
     (∃ w i, fetch s = some w ∧ decode w = some i ∧ exec i (enterExecute (tick s)) = .fault record)) := by
  unfold step at h
  rw [fetch_tick] at h
  cases hs : s.status with
  | faulted record => simp [hs] at h
  | running =>
    refine ⟨rfl, ?_⟩
    simp only [hs] at h
    cases hf : fetch s with
    | none =>
      simp only [hf, tick_pc, Host.Outcome.fault.injEq] at h
      exact .inl ⟨rfl, h.symm⟩
    | some w =>
      simp only [hf] at h
      cases hd : decode w with
      | none =>
        simp only [hd, Host.Outcome.fault.injEq] at h
        exact .inr (.inl ⟨w, rfl, hd, h.symm⟩)
      | some i =>
        simp only [hd] at h
        cases he : exec i (enterExecute (tick s)) with
        | next u => simp [he, endStep] at h
        | fault r =>
          simp only [he, endStep, Host.Outcome.fault.injEq] at h
          exact .inr (.inr ⟨w, i, rfl, hd, h ▸ he⟩)
        | refused r => simp [he, endStep] at h

end Sys2Proof.Machine
end

