-- ==== Sys2Proof/Laws/Exec.lean ====
section
/-! SUPPORT. What no instruction changes (10_state.md R20, R32 to R34). -/

namespace Sys2Proof.Machine

/-- `t` has the parts of `s` that no instruction writes. -/
structure KeepsHostParts (s t : State) : Prop where
  acc : t.acc = s.acc
  keys : t.keys = s.keys
  lrk : t.lrk = s.lrk
  status : t.status = s.status
  cfg : t.cfg = s.cfg

theorem KeepsHostParts.refl (s : State) : KeepsHostParts s s := ⟨rfl, rfl, rfl, rfl, rfl⟩

/-- No instruction writes ACC, K, LRK, the status or the configuration (10_state.md R32, R33, R34, R21, R20). -/
theorem exec_keeps {i : Instr} {s t : State} (h : exec i s = .next t) : KeepsHostParts s t := by
  have hskip : ∀ {c : Bool}, skipIf c s = .next t → KeepsHostParts s t := by
    intro c h; cases h; cases c <;> exact ⟨rfl, rfl, rfl, rfl, rfl⟩
  have hkey : ∀ {j : Instr} {x : Reg} {p : Bool}, skipIfKey j x p s = .next t → KeepsHostParts s t := by
    intro j x p h
    rcases skipIfKey_cases j x p s with ⟨_, h'⟩ | ⟨-, h'⟩ <;> rw [h'] at h <;> cases h
    split <;> exact ⟨rfl, rfl, rfl, rfl, rfl⟩
  have hflag : ∀ {x : Reg} {r f : Byte}, (.next (s.writeResultAndFlag x r f) : Answer) = .next t → KeepsHostParts s t := by
    intro x r f h; cases h; rw [State.writeResultAndFlag_eq]; exact ⟨rfl, rfl, rfl, rfl, rfl⟩
  cases i <;> simp only [exec] at h
  case ret => unfold execRet raise at h; split at h <;> cases h; exact ⟨rfl, rfl, rfl, rfl, rfl⟩
  case call => unfold execCall raise at h; split at h <;> cases h; exact ⟨rfl, rfl, rfl, rfl, rfl⟩
  case seImm => exact hskip h
  case sneImm => exact hskip h
  case seReg => exact hskip h
  case sneReg => exact hskip h
  case skp => exact hkey h
  case sknp => exact hkey h
  case addReg => exact hflag h
  case subReg => exact hflag h
  case shrReg => exact hflag h
  case subnReg => exact hflag h
  case shlReg => exact hflag h
  case ldVxK => unfold execLdVxK at h; split at h <;> cases h <;> exact ⟨rfl, rfl, rfl, rfl, rfl⟩
  case addI => unfold execAddI at h; cases h; split <;> exact ⟨rfl, rfl, rfl, rfl, rfl⟩
  case drw => obtain ⟨-, rfl⟩ := checkBounds_next h; rw [State.setCollision_eq]; exact ⟨rfl, rfl, rfl, rfl, rfl⟩
  case ldB => obtain ⟨-, rfl⟩ := checkBounds_next h; exact ⟨rfl, rfl, rfl, rfl, rfl⟩
  case ldMemVx => obtain ⟨-, rfl⟩ := checkBounds_next h; rw [State.advanceIndex_eq]; exact ⟨rfl, rfl, rfl, rfl, rfl⟩
  case ldVxMem => obtain ⟨-, rfl⟩ := checkBounds_next h; rw [State.advanceIndex_eq]; exact ⟨rfl, rfl, rfl, rfl, rfl⟩
  all_goals (cases h; exact ⟨rfl, rfl, rfl, rfl, rfl⟩)

end Sys2Proof.Machine
end

