-- ==== Sys2Proof/Laws/Frame.lean ====
section
/-! SUPPORT. The frame of each update a meaning is made of. -/

namespace Sys2Proof.Machine

variable (s : State)

/-- A frame names a register file, an index and a memory that agree where it says, and every other field equal. -/
theorem Frame.ofFields {e : Effects} {s t : State} (hr : ∀ x, x ∉ e.regs → t.reg x = s.reg x)
    (hm : ∀ a, ¬ (e.stored.1 ≤ a ∧ a < e.stored.1 + e.stored.2) → t.peek a = s.peek a)
    (ht : t = { s with mem := t.mem, v := t.v, i := t.i }) (hi : e.index = false → t.i = s.i) : Frame e s t := by
  rw [ht] at hr hm hi ⊢
  exact ⟨hr, fun _ => rfl, hi, fun _ => rfl, fun _ => rfl, fun _ => rfl, fun _ => rfl, fun _ => rfl, fun _ => rfl, hm,
    rfl, rfl, rfl, rfl, rfl⟩

/-- A register write changes that register (10_state.md R22). -/
theorem frame_setReg (x : Reg) (b : Byte) : Frame { regs := [x] } s (s.setReg x b) :=
  Frame.ofFields (fun y hy => by simp [State.reg_setReg, show ¬ y = x by simpa using hy]) (fun _ _ => rfl) rfl (fun _ => rfl)

/-- A write of PC changes PC (10_state.md R26). -/
theorem frame_setPc (a : Word) : Frame { pc := true } s (s.setPc a) := by
  constructor <;> intros <;> first | rfl | contradiction

/-- A write of I changes I (10_state.md R28). -/
theorem frame_setIndex (a : Word) : Frame { index := true } s (s.setIndex a) := by
  constructor <;> intros <;> first | rfl | contradiction

/-- A write of DT changes DT (10_state.md R31). -/
theorem frame_setDelay (b : Byte) : Frame { delay := true } s (s.setDelay b) := by
  constructor <;> intros <;> first | rfl | contradiction

/-- A write of ST changes ST (10_state.md R31). -/
theorem frame_setSound (b : Byte) : Frame { sound := true } s (s.setSound b) := by
  constructor <;> intros <;> first | rfl | contradiction

/-- A write of the stack and of PC changes those (10_state.md R29). -/
theorem frame_setStack_setPc (l : List Word) (a : Word) :
    Frame { pc := true, stack := true } s ((s.setStack l).setPc a) := by
  constructor <;> intros <;> first | rfl | contradiction

/-- Nothing changed. -/
theorem frame_refl (e : Effects) : Frame e s s := by
  constructor <;> intros <;> rfl

/-- `write_result_and_flag` changes the destination and VF (42_register_alu.md R141). -/
theorem frame_writeResultAndFlag (x : Reg) (r f : Byte) :
    Frame { regs := [x, flagReg] } s (s.writeResultAndFlag x r f) := by
  refine Frame.ofFields (fun y hy => ?_) (fun a _ => ?_) ?_ (fun _ => ?_) <;>
    rcases s.writeResultAndFlag_cases x r f with ⟨-, h⟩ | ⟨-, h⟩ <;> rw [h]
  · simp_all [State.reg_setReg]
  · simp_all [State.reg_setReg]
  all_goals rfl

/-- What `write_result_and_flag` leaves in the destination and in VF (42_register_alu.md R141). -/
theorem resultAndFlag_writeResultAndFlag (x : Reg) (r f : Byte) :
    ResultAndFlag s (s.writeResultAndFlag x r f) x r f := by
  unfold ResultAndFlag
  rcases s.writeResultAndFlag_cases x r f with ⟨ho, h⟩ | ⟨ho, h⟩ <;> rw [h] <;>
    refine ⟨fun hx => ?_, fun hx => ?_⟩ <;> simp [State.reg_setReg, ho, hx, Ne.symm]

/-- Storing bytes inside the address space changes those bytes, as memory reads (20_memory.md R60). -/
theorem frame_pokeBytes {s : State} {a : Nat} {bs : List Byte} (hm : s.mem.wf s.cfg.font = true)
    (h : a + bs.length ≤ 0x1000) : Frame { stored := (a, bs.length) } s (s.pokeBytes a bs) := by
  refine Frame.ofFields (fun _ _ => rfl) (fun b hb => ?_) rfl (fun _ => rfl)
  rw [State.peek_pokeBytes hm h]
  split
  · rw [List.getD_eq_getElem?_getD, List.getElem?_eq_none (by simp only at hb; omega), Option.getD_none]
  · rfl

end Sys2Proof.Machine
end

