-- ==== Sys2Proof/Laws/PerInstr.lean ====
section
/-! SUPPORT. Statements made of each instruction as syntax, one lemma per constructor. -/

namespace Sys2Proof.Laws.TableRow

/-- The instruction's word belongs to the row of the opcode map that carries its mnemonic (30_encoding.md R93). -/
def Statement (i : Instr) : Prop := ∃ r ∈ opcodeTable, r.mnemonic = i.mnemonic ∧ r.holds (encode i) = true

theorem cls : Statement .cls :=
  ⟨⟨"CLS", 0xFFFF#16, 0x00E0#16⟩, by simp [opcodeTable, opcodeRowsLow, opcodeRowsMid, opcodeRowsHigh], rfl, by
    simp [OpcodeRow.holds, encode]⟩

theorem ret : Statement .ret :=
  ⟨⟨"RET", 0xFFFF#16, 0x00EE#16⟩, by simp [opcodeTable, opcodeRowsLow, opcodeRowsMid, opcodeRowsHigh], rfl, by
    simp [OpcodeRow.holds, encode]⟩

theorem jp (nnn : Addr) : Statement (.jp nnn) :=
  ⟨⟨"JP_nnn", 0xF000#16, 0x1000#16⟩, by simp [opcodeTable, opcodeRowsLow, opcodeRowsMid, opcodeRowsHigh], rfl, by
    simp [OpcodeRow.holds, encode, and_opMask]⟩

theorem call (nnn : Addr) : Statement (.call nnn) :=
  ⟨⟨"CALL_nnn", 0xF000#16, 0x2000#16⟩, by simp [opcodeTable, opcodeRowsLow, opcodeRowsMid, opcodeRowsHigh], rfl, by
    simp [OpcodeRow.holds, encode, and_opMask]⟩

theorem seImm (x : Reg) (nn : Byte) : Statement (.seImm x nn) :=
  ⟨⟨"SE_Vx__nn", 0xF000#16, 0x3000#16⟩, by simp [opcodeTable, opcodeRowsLow, opcodeRowsMid, opcodeRowsHigh], rfl, by
    simp [OpcodeRow.holds, encode, and_opMask]⟩

theorem sneImm (x : Reg) (nn : Byte) : Statement (.sneImm x nn) :=
  ⟨⟨"SNE_Vx__nn", 0xF000#16, 0x4000#16⟩, by simp [opcodeTable, opcodeRowsLow, opcodeRowsMid, opcodeRowsHigh], rfl, by
    simp [OpcodeRow.holds, encode, and_opMask]⟩

theorem seReg (x y : Reg) : Statement (.seReg x y) :=
  ⟨⟨"SE_Vx__Vy", 0xF00F#16, 0x5000#16⟩, by simp [opcodeTable, opcodeRowsLow, opcodeRowsMid, opcodeRowsHigh], rfl, by
    simp [OpcodeRow.holds, encode, and_opNMask]⟩

theorem ldImm (x : Reg) (nn : Byte) : Statement (.ldImm x nn) :=
  ⟨⟨"LD_Vx__nn", 0xF000#16, 0x6000#16⟩, by simp [opcodeTable, opcodeRowsLow, opcodeRowsMid, opcodeRowsHigh], rfl, by
    simp [OpcodeRow.holds, encode, and_opMask]⟩

theorem addImm (x : Reg) (nn : Byte) : Statement (.addImm x nn) :=
  ⟨⟨"ADD_Vx__nn", 0xF000#16, 0x7000#16⟩, by simp [opcodeTable, opcodeRowsLow, opcodeRowsMid, opcodeRowsHigh], rfl, by
    simp [OpcodeRow.holds, encode, and_opMask]⟩

theorem ldReg (x y : Reg) : Statement (.ldReg x y) :=
  ⟨⟨"LD_Vx__Vy", 0xF00F#16, 0x8000#16⟩, by simp [opcodeTable, opcodeRowsLow, opcodeRowsMid, opcodeRowsHigh], rfl, by
    simp [OpcodeRow.holds, encode, and_opNMask]⟩

theorem orReg (x y : Reg) : Statement (.orReg x y) :=
  ⟨⟨"OR_Vx__Vy", 0xF00F#16, 0x8001#16⟩, by simp [opcodeTable, opcodeRowsLow, opcodeRowsMid, opcodeRowsHigh], rfl, by
    simp [OpcodeRow.holds, encode, and_opNMask]⟩

theorem andReg (x y : Reg) : Statement (.andReg x y) :=
  ⟨⟨"AND_Vx__Vy", 0xF00F#16, 0x8002#16⟩, by simp [opcodeTable, opcodeRowsLow, opcodeRowsMid, opcodeRowsHigh], rfl, by
    simp [OpcodeRow.holds, encode, and_opNMask]⟩

theorem xorReg (x y : Reg) : Statement (.xorReg x y) :=
  ⟨⟨"XOR_Vx__Vy", 0xF00F#16, 0x8003#16⟩, by simp [opcodeTable, opcodeRowsLow, opcodeRowsMid, opcodeRowsHigh], rfl, by
    simp [OpcodeRow.holds, encode, and_opNMask]⟩

theorem addReg (x y : Reg) : Statement (.addReg x y) :=
  ⟨⟨"ADD_Vx__Vy", 0xF00F#16, 0x8004#16⟩, by simp [opcodeTable, opcodeRowsLow, opcodeRowsMid, opcodeRowsHigh], rfl, by
    simp [OpcodeRow.holds, encode, and_opNMask]⟩

theorem subReg (x y : Reg) : Statement (.subReg x y) :=
  ⟨⟨"SUB_Vx__Vy", 0xF00F#16, 0x8005#16⟩, by simp [opcodeTable, opcodeRowsLow, opcodeRowsMid, opcodeRowsHigh], rfl, by
    simp [OpcodeRow.holds, encode, and_opNMask]⟩

theorem shrReg (x y : Reg) : Statement (.shrReg x y) :=
  ⟨⟨"SHR_Vx__Vy", 0xF00F#16, 0x8006#16⟩, by simp [opcodeTable, opcodeRowsLow, opcodeRowsMid, opcodeRowsHigh], rfl, by
    simp [OpcodeRow.holds, encode, and_opNMask]⟩

theorem subnReg (x y : Reg) : Statement (.subnReg x y) :=
  ⟨⟨"SUBN_Vx__Vy", 0xF00F#16, 0x8007#16⟩, by simp [opcodeTable, opcodeRowsLow, opcodeRowsMid, opcodeRowsHigh], rfl, by
    simp [OpcodeRow.holds, encode, and_opNMask]⟩

theorem shlReg (x y : Reg) : Statement (.shlReg x y) :=
  ⟨⟨"SHL_Vx__Vy", 0xF00F#16, 0x800E#16⟩, by simp [opcodeTable, opcodeRowsLow, opcodeRowsMid, opcodeRowsHigh], rfl, by
    simp [OpcodeRow.holds, encode, and_opNMask]⟩

theorem sneReg (x y : Reg) : Statement (.sneReg x y) :=
  ⟨⟨"SNE_Vx__Vy", 0xF00F#16, 0x9000#16⟩, by simp [opcodeTable, opcodeRowsLow, opcodeRowsMid, opcodeRowsHigh], rfl, by
    simp [OpcodeRow.holds, encode, and_opNMask]⟩

theorem ldI (nnn : Addr) : Statement (.ldI nnn) :=
  ⟨⟨"LD_I__nnn", 0xF000#16, 0xA000#16⟩, by simp [opcodeTable, opcodeRowsLow, opcodeRowsMid, opcodeRowsHigh], rfl, by
    simp [OpcodeRow.holds, encode, and_opMask]⟩

theorem jpV0 (nnn : Addr) : Statement (.jpV0 nnn) :=
  ⟨⟨"JP_V0__nnn", 0xF000#16, 0xB000#16⟩, by simp [opcodeTable, opcodeRowsLow, opcodeRowsMid, opcodeRowsHigh], rfl, by
    simp [OpcodeRow.holds, encode, and_opMask]⟩

theorem rnd (x : Reg) (nn : Byte) : Statement (.rnd x nn) :=
  ⟨⟨"RND_Vx__nn", 0xF000#16, 0xC000#16⟩, by simp [opcodeTable, opcodeRowsLow, opcodeRowsMid, opcodeRowsHigh], rfl, by
    simp [OpcodeRow.holds, encode, and_opMask]⟩

theorem drw (x y : Reg) (n : Nibble) : Statement (.drw x y n) :=
  ⟨⟨"DRW_Vx__Vy__n", 0xF000#16, 0xD000#16⟩, by simp [opcodeTable, opcodeRowsLow, opcodeRowsMid, opcodeRowsHigh], rfl, by
    simp [OpcodeRow.holds, encode, and_opMask]⟩

theorem skp (x : Reg) : Statement (.skp x) :=
  ⟨⟨"SKP_Vx", 0xF0FF#16, 0xE09E#16⟩, by simp [opcodeTable, opcodeRowsLow, opcodeRowsMid, opcodeRowsHigh], rfl, by
    simp [OpcodeRow.holds, encode, and_opNNMask]⟩

theorem sknp (x : Reg) : Statement (.sknp x) :=
  ⟨⟨"SKNP_Vx", 0xF0FF#16, 0xE0A1#16⟩, by simp [opcodeTable, opcodeRowsLow, opcodeRowsMid, opcodeRowsHigh], rfl, by
    simp [OpcodeRow.holds, encode, and_opNNMask]⟩

theorem ldVxDt (x : Reg) : Statement (.ldVxDt x) :=
  ⟨⟨"LD_Vx__DT", 0xF0FF#16, 0xF007#16⟩, by simp [opcodeTable, opcodeRowsLow, opcodeRowsMid, opcodeRowsHigh], rfl, by
    simp [OpcodeRow.holds, encode, and_opNNMask]⟩

theorem ldVxK (x : Reg) : Statement (.ldVxK x) :=
  ⟨⟨"LD_Vx__K", 0xF0FF#16, 0xF00A#16⟩, by simp [opcodeTable, opcodeRowsLow, opcodeRowsMid, opcodeRowsHigh], rfl, by
    simp [OpcodeRow.holds, encode, and_opNNMask]⟩

theorem ldDtVx (x : Reg) : Statement (.ldDtVx x) :=
  ⟨⟨"LD_DT__Vx", 0xF0FF#16, 0xF015#16⟩, by simp [opcodeTable, opcodeRowsLow, opcodeRowsMid, opcodeRowsHigh], rfl, by
    simp [OpcodeRow.holds, encode, and_opNNMask]⟩

theorem ldStVx (x : Reg) : Statement (.ldStVx x) :=
  ⟨⟨"LD_ST__Vx", 0xF0FF#16, 0xF018#16⟩, by simp [opcodeTable, opcodeRowsLow, opcodeRowsMid, opcodeRowsHigh], rfl, by
    simp [OpcodeRow.holds, encode, and_opNNMask]⟩

theorem addI (x : Reg) : Statement (.addI x) :=
  ⟨⟨"ADD_I__Vx", 0xF0FF#16, 0xF01E#16⟩, by simp [opcodeTable, opcodeRowsLow, opcodeRowsMid, opcodeRowsHigh], rfl, by
    simp [OpcodeRow.holds, encode, and_opNNMask]⟩

theorem ldF (x : Reg) : Statement (.ldF x) :=
  ⟨⟨"LD_F__Vx", 0xF0FF#16, 0xF029#16⟩, by simp [opcodeTable, opcodeRowsLow, opcodeRowsMid, opcodeRowsHigh], rfl, by
    simp [OpcodeRow.holds, encode, and_opNNMask]⟩

theorem ldB (x : Reg) : Statement (.ldB x) :=
  ⟨⟨"LD_B__Vx", 0xF0FF#16, 0xF033#16⟩, by simp [opcodeTable, opcodeRowsLow, opcodeRowsMid, opcodeRowsHigh], rfl, by
    simp [OpcodeRow.holds, encode, and_opNNMask]⟩

theorem ldMemVx (x : Reg) : Statement (.ldMemVx x) :=
  ⟨⟨"LD__I___Vx", 0xF0FF#16, 0xF055#16⟩, by simp [opcodeTable, opcodeRowsLow, opcodeRowsMid, opcodeRowsHigh], rfl, by
    simp [OpcodeRow.holds, encode, and_opNNMask]⟩

theorem ldVxMem (x : Reg) : Statement (.ldVxMem x) :=
  ⟨⟨"LD_Vx___I", 0xF0FF#16, 0xF065#16⟩, by simp [opcodeTable, opcodeRowsLow, opcodeRowsMid, opcodeRowsHigh], rfl, by
    simp [OpcodeRow.holds, encode, and_opNNMask]⟩

end Sys2Proof.Laws.TableRow
end

