-- ==== Sys2Proof/Tests/Slice0.lean ====
section
/-!
SUPPORT. Tests. Expected values are those of spec/95_test_vectors.md (the row's id stands in the comment: EN, ST, CF, AL, FD,
IM, DS, KT, CN, P) or words written out from 30_encoding.md R93; none is the model's own answer. The second half shows, for
each obligation with hypotheses, data that meet them (`witness_<Obligation>`).
-/

namespace Sys2Proof.Tests

open Sys2Proof Sys2Proof.Machine

-- One theorem after the other: checked all at once, their threads' stacks alone fill the memory limit.
set_option Elab.async false

/-! ## Helpers -/

/-- The state with a word placed where the next step fetches. -/
def placed (w : Nat) (s : State) : State := s.withFetchWord 16 w

/-- One step that runs the word `w`. -/
def ran (w : Nat) (s : State) : Answer := step (placed w s)

/-- A part of the next state, if the answer is one. -/
def part {α : Type} (f : State → α) : Answer → Option α
  | .next s => some (f s)
  | .fault _ => none
  | .refused _ => none

/-- The fault, if the answer is one. -/
def stop : Answer → Option Fault
  | .next _ => none
  | .fault r => some r
  | .refused _ => none

/-- Writes registers, first pair first. -/
def regs (l : List (Reg × Byte)) (s : State) : State := l.foldl (fun s p => s.setReg p.1 p.2) s

/-- The reset state with other parameters. -/
def resetWith (f : Config → Config) : State := State.initial (f Config.default)

/-- V0, V1 and VF as the ALU vectors start them; VF is 0x55. -/
def alu (v0 v1 : Byte) : State := regs [(0, v0), (1, v1), (0xF, 0x55)] State.reset

/-- V0 and VF after one step. -/
def v0vf (s : State) : Byte × Byte := (s.reg 0, s.reg flagReg)

/-- VF after one step on the vectors whose destination is VF, in both orders of VF_DEST_ORDER. -/
def bothOrders (w : Nat) (vf v1 : Byte) : Option Byte × Option Byte :=
  (part (State.reg · flagReg) (ran w (regs [(0xF, vf), (1, v1)] State.reset)),
   part (State.reg · flagReg)
    (ran w (regs [(0xF, vf), (1, v1)] (resetWith fun c => { c with vfDestOrder := .resultLast }))))

/-- The set cells, as (row, column), in row-major order. -/
def setCells (s : State) : List (Nat × Nat) :=
  ((List.range 2048).zip (readDisplay s)).filterMap fun p => if p.2 then some (p.1 / 64, p.1 % 64) else none

/-- The reset state with sprite bytes at 0x300, I there, and V0, V1. -/
def sprite (bytes : List Byte) (v0 v1 : Byte) : State :=
  (regs [(0, v0), (1, v1)] (State.reset.setIndex 0x300)).pokeBytes 0x300 bytes

/-- The state a next-state answer holds, or the given one. -/
def orElse (s : State) : Answer → State
  | .next t => t
  | .fault _ => s
  | .refused _ => s

/-! ## Well-formedness: each check refuses an ill-formed term -/

/-- EN1, EN7, EN10: words outside the map. -/
theorem test_wordWellFormed_refuses :
    [0x0000, 0x5121, 0x8AB8, 0xE19F, 0xF130].map wordWellFormed = [false, false, false, false, false] := by
  decide +kernel

theorem test_wordWellFormed_accepts : [0x00E0, 0x5120, 0x8ABE, 0xE19E, 0xF133].all wordWellFormed = true := by
  decide +kernel

/-- CN1, CN2. -/
theorem test_programWellFormed :
    programWellFormed (List.replicate 3585 0) = false ∧ programWellFormed (List.replicate 3584 0) = true := by
  simp only [programWellFormed, List.length_replicate, progMax]; decide

/-- KT15. -/
theorem test_keyWellFormed : keyWellFormed 16 = false ∧ keyWellFormed 15 = true := by decide

/-! ## Decoding: a word of every constructor, from the map of 30_encoding.md R93 -/

theorem test_decode_control :
    [0x00EE, 0x1234, 0x2ABC, 0x3A12, 0x4B34, 0x5120, 0x9AB0, 0xB234].map decode =
      [some .ret, some (.jp 0x234), some (.call 0xABC), some (.seImm 0xA 0x12), some (.sneImm 0xB 0x34),
       some (.seReg 1 2), some (.sneReg 0xA 0xB), some (.jpV0 0x234)] := by decide +kernel

theorem test_decode_alu :
    [0x6A42, 0x7C01, 0x8120, 0x8341, 0x8562, 0x8783, 0x89A4, 0x8BC5, 0x8DE6, 0x8F07, 0x8ABE, 0xC30F].map decode =
      [some (.ldImm 0xA 0x42), some (.addImm 0xC 0x01), some (.ldReg 1 2), some (.orReg 3 4), some (.andReg 5 6),
       some (.xorReg 7 8), some (.addReg 9 0xA), some (.subReg 0xB 0xC), some (.shrReg 0xD 0xE), some (.subnReg 0xF 0),
       some (.shlReg 0xA 0xB), some (.rnd 3 0x0F)] := by decide +kernel

theorem test_decode_index :
    [0xA123, 0xF11E, 0xF229, 0xF333, 0xF455, 0xF565].map decode =
      [some (.ldI 0x123), some (.addI 1), some (.ldF 2), some (.ldB 3), some (.ldMemVx 4), some (.ldVxMem 5)] := by
  decide +kernel

/-- EN2, EN15. -/
theorem test_decode_display : [0x00E0, 0xD123].map decode = [some .cls, some (.drw 1 2 3)] := by decide +kernel

theorem test_decode_timers_keys :
    [0xE19E, 0xE2A1, 0xF307, 0xF40A, 0xF515, 0xF618].map decode =
      [some (.skp 1), some (.sknp 2), some (.ldVxDt 3), some (.ldVxK 4), some (.ldDtVx 5), some (.ldStVx 6)] := by
  decide +kernel

/-- EN1, EN3, EN5, EN7, EN9, EN10, EN12, EN14. -/
theorem test_decode_unimplemented :
    [0x0000, 0x00E1, 0x0123, 0x5121, 0x9AB5, 0x8AB8, 0x8AB9, 0x8ABA, 0x8ABB, 0x8ABC, 0x8ABD, 0x8ABF, 0xE19F, 0xF108,
      0xF130, 0xF175].all (fun w => decode w = none) = true := by decide +kernel

/-- 20_memory.md R53: the first byte is the high one; 30_encoding.md R94: the word is named. -/
theorem test_decodeBytes :
    (decodeBytes [0xA1, 0x23, 0x45] matches .ok (.ldI 0x123, [0x45])) = true ∧
    (decodeBytes [0x51, 0x21] matches .error (.unimplemented 0x5121)) = true ∧
    (decodeBytes [0xA1] matches .error .tooShort) = true := by decide +kernel

theorem test_encode_words :
    [encode .cls, encode (.call 0xABC), encode (.seImm 0xA 0x12), encode (.shlReg 0xA 0xB), encode (.drw 1 2 3),
      encode (.ldVxMem 5)] = [0x00E0, 0x2ABC, 0x3A12, 0x8ABE, 0xD123, 0xF565] := by decide +kernel

theorem test_decodeTableWord : decodeTableWord 16 0xD123 = some (.drw 1 2 3) ∧ decodeTableWord 16 0x0123 = none := by
  decide +kernel

/-! ## The step and the timers (40_execution_cycle.md) -/

/-- ST1, ST2: the tick at ACC 11 and none at ACC 10. -/
theorem test_tick_at_speed_700 :
    part (fun s => (s.acc, s.dt, s.st)) (ran 0x6000 { State.reset with acc := 11, dt := 5 }) = some (0, 4, 0) ∧
    part (fun s => (s.acc, s.dt)) (ran 0x6000 { State.reset with acc := 10, dt := 5 }) = some (11, 5) := by decide +kernel

/-- ST3. -/
theorem test_tick_at_speed_0 :
    part (fun s => (s.acc, s.dt, s.st)) (ran 0x6000 { resetWith (fun c => { c with speed := 0 }) with dt := 1, st := 2 }) =
      some (0, 0, 1) := by decide +kernel

/-- ST7, ST8. -/
theorem test_fetch_edges :
    stop (step (State.reset.setPc 0xFFF)) = some (.fetchOutOfRange 0xFFF) ∧
    part State.pc (ran 0x1200 (State.reset.setPc 0xFFE)) = some 0x200 := by decide +kernel

/-- ST9: an odd PC. -/
theorem test_fetch_odd_address :
    part (fun s => (s.reg 0, s.pc)) (ran 0x6007 (State.reset.setPc 0x201)) = some (7, 0x203) := by decide +kernel

/-- ST10, KT13: LRK lives one step. -/
theorem test_last_released_key_cleared : part State.lrk (ran 0x6000 { State.reset with lrk := some 3 }) = some none := by
  decide +kernel

/-- ST11, ST12. -/
theorem test_dirty :
    [part State.dirty (ran 0xD000 State.reset), part State.dirty (ran 0x00E0 State.reset),
      part State.dirty (ran 0x00E0 (resetWith fun c => { c with clearSetsDirty := true }))] =
      [some true, some false, some true] := by decide +kernel

/-- CN3 and P1 step 4 with FAULT_PC_REPORT = next_pc. -/
theorem test_unimplemented_word :
    stop (step State.reset) = some (.unimplemented 0x0000 0x200) ∧
    stop (step (resetWith (fun c => { c with faultPcReport := .nextPc }) |>.setPc 0x206)) =
      some (.unimplemented 0x0000 0x208) := by decide +kernel

/-! ## Control flow (41_control_flow.md) -/

/-- CF1, CF17. -/
theorem test_jp :
    part State.pc (ran 0x1ABC State.reset) = some 0xABC ∧ part State.pc (ran 0x1300 (State.reset.setPc 0x300)) = some 0x300 := by
  decide +kernel

/-- CF2, CF6. -/
theorem test_call :
    part (fun s => (s.stack, s.pc)) (ran 0x2300 (State.reset.setPc 0x204)) = some ([0x206], 0x300) ∧
    part (fun s => (s.stack.length, s.top, s.pc))
      (ran 0x2500 ((State.reset.setStack (List.replicate 15 0x202)).setPc 0x400)) = some (16, some 0x402, 0x500) := by
  decide +kernel

/-- CF5, P7. -/
theorem test_call_full_stack :
    stop (ran 0x2200 (State.reset.setStack (List.replicate 16 0x202))) = some (.stackOverflow 0x2200 0x200) ∧
    part (fun s => s.stack.length)
      (ran 0x2200 ((resetWith fun c => { c with stackLimit := none }).setStack (List.replicate 16 0x202))) = some 17 := by
  decide +kernel

/-- CF3, CF4. -/
theorem test_ret :
    part (fun s => (s.pc, s.stack)) (ran 0x00EE ((State.reset.setStack [0x206]).setPc 0x212)) = some (0x206, []) ∧
    stop (ran 0x00EE State.reset) = some (.stackUnderflow 0x00EE 0x200) := by decide +kernel

/-- CF7, CF15. -/
theorem test_seImm :
    [0x3012, 0x3013].map (fun w => part State.pc (ran w (regs [(0, 0x12)] State.reset))) = [some 0x204, some 0x202] ∧
    part State.pc (ran 0x3000 (State.reset.setPc 0xFFE)) = some 0x1002 := by decide +kernel

/-- CF8. -/
theorem test_sneImm :
    [0x4012, 0x4013].map (fun w => part State.pc (ran w (regs [(0, 0x12)] State.reset))) = [some 0x202, some 0x204] := by
  decide +kernel

/-- CF9, CF10, CF11. -/
theorem test_seReg :
    [part State.pc (ran 0x5120 (regs [(1, 7), (2, 7)] State.reset)),
      part State.pc (ran 0x5120 (regs [(1, 7), (2, 8)] State.reset)), part State.pc (ran 0x5110 State.reset)] =
      [some 0x204, some 0x202, some 0x204] := by decide +kernel

/-- CF9, CF10, CF11. -/
theorem test_sneReg :
    [part State.pc (ran 0x9120 (regs [(1, 7), (2, 7)] State.reset)),
      part State.pc (ran 0x9120 (regs [(1, 7), (2, 8)] State.reset)), part State.pc (ran 0x9110 State.reset)] =
      [some 0x202, some 0x204, some 0x202] := by decide +kernel

/-- CF12, CF13. -/
theorem test_jpV0 :
    part State.pc (ran 0xB300 (regs [(0, 0x10)] State.reset)) = some 0x310 ∧
    part State.pc (ran 0xBFFF (regs [(0, 0xFF)] State.reset)) = some 0x10FE := by decide +kernel

/-! ## Registers and arithmetic (42_register_alu.md) -/

/-- AL1. -/
theorem test_ldImm : part (State.reg · 0xA) (ran 0x6A42 State.reset) = some 0x42 := by decide +kernel

/-- AL2, AL3. -/
theorem test_addImm :
    part v0vf (ran 0x7001 (alu 0xFF 0)) = some (0x00, 0x55) ∧ part v0vf (ran 0x70FF (alu 1 0)) = some (0x00, 0x55) := by
  decide +kernel

/-- AL4. -/
theorem test_ldReg : part v0vf (ran 0x8010 (alu 0x00 0x33)) = some (0x33, 0x55) := by decide +kernel

/-- AL5, FD6. -/
theorem test_orReg :
    part v0vf (ran 0x8011 (alu 0xF0 0x0F)) = some (0xFF, 0x55) ∧ bothOrders 0x8F11 0x50 0x05 = (some 0x55, some 0x55) := by
  decide +kernel

/-- AL6. -/
theorem test_andReg : part v0vf (ran 0x8012 (alu 0xF0 0x3C)) = some (0x30, 0x55) := by decide +kernel

/-- AL7, AL8. -/
theorem test_xorReg :
    part v0vf (ran 0x8013 (alu 0xFF 0x0F)) = some (0xF0, 0x55) ∧ part v0vf (ran 0x8003 (alu 0xA5 0)) = some (0x00, 0x55) := by
  decide +kernel

/-- AL9 to AL13, FD7. -/
theorem test_addReg :
    [part v0vf (ran 0x8014 (alu 0x0A 0x05)), part v0vf (ran 0x8014 (alu 0xFF 0x01)), part v0vf (ran 0x8014 (alu 0x80 0x7F)),
      part v0vf (ran 0x8014 (alu 0x80 0x80)), part v0vf (ran 0x8004 (alu 0x90 0)),
      part v0vf (ran 0x80F4 (regs [(0, 0xFF), (0xF, 1)] State.reset))] =
      [some (0x0F, 0), some (0x00, 1), some (0xFF, 0), some (0x00, 1), some (0x20, 1), some (0x00, 1)] := by decide +kernel

/-- AL14 to AL16. -/
theorem test_subReg :
    [part v0vf (ran 0x8015 (alu 0x05 0x03)), part v0vf (ran 0x8015 (alu 0x03 0x05)), part v0vf (ran 0x8015 (alu 0x07 0x07))] =
      [some (0x02, 1), some (0xFE, 0), some (0x00, 1)] := by decide +kernel

/-- AL17 to AL19. -/
theorem test_subnReg :
    [part v0vf (ran 0x8017 (alu 0x03 0x05)), part v0vf (ran 0x8017 (alu 0x05 0x03)), part v0vf (ran 0x8017 (alu 0x09 0x09))] =
      [some (0x02, 1), some (0xFE, 0), some (0x00, 1)] := by decide +kernel

/-- AL20, AL21, AL24. -/
theorem test_shrReg :
    [part v0vf (ran 0x8016 (alu 0xFF 0x05)), part v0vf (ran 0x8016 (alu 0xFF 0x04)), part v0vf (ran 0x8006 (alu 0x03 0))] =
      [some (0x02, 1), some (0x02, 0), some (0x01, 1)] := by decide +kernel

/-- AL22, AL23. -/
theorem test_shlReg :
    part v0vf (ran 0x801E (alu 0x00 0x81)) = some (0x02, 1) ∧ part v0vf (ran 0x801E (alu 0x00 0x40)) = some (0x80, 0) := by
  decide +kernel

/-- FD1 to FD5: VF as the destination, flag_last and result_last. -/
theorem test_flag_as_destination :
    [bothOrders 0x8F14 0xFF 0x01, bothOrders 0x8F15 0x10 0x01, bothOrders 0x8F16 0x55 0x03, bothOrders 0x8F1E 0x55 0x80,
      bothOrders 0x8F17 0x05 0x03] =
      [(some 1, some 0x00), (some 1, some 0x0F), (some 1, some 0x01), (some 1, some 0x00), (some 0, some 0xFE)] := by
  decide +kernel

/-- The mask 0x0F keeps only the low nibble of any draw (42_register_alu.md R153). -/
theorem test_rnd_completes : part (fun s => (s.pc, s.draws)) (ran 0xC30F State.reset) = some (0x202, 1) := by decide +kernel

/-! ## Index register and memory (43_index_memory.md) -/

/-- IM1. -/
theorem test_ldI : part State.i (ran 0xA123 State.reset) = some 0x123 := by decide +kernel

/-- IM2, IM3, IM4. -/
theorem test_addI :
    [part (fun s => (s.i, s.reg flagReg)) (ran 0xF01E (regs [(0, 0x01)] (State.reset.setIndex 0xFFF))),
      part (fun s => (s.i, s.reg flagReg)) (ran 0xF01E (regs [(0, 0x10), (0xF, 0x77)] (State.reset.setIndex 0x100))),
      part (fun s => (s.i, s.reg flagReg)) (ran 0xF01E (regs [(0, 0xFF), (0xF, 0x77)] (State.reset.setIndex 0xF00)))] =
      [some (0x000, 1), some (0x110, 0x77), some (0xFFF, 0x77)] := by decide +kernel

/-- IM5: VF is the source and then the flag. -/
theorem test_addI_flag_source :
    part (fun s => (s.i, s.reg flagReg)) (ran 0xFF1E (regs [(0xF, 0xFF)] (State.reset.setIndex 0xFFF))) = some (0x0FE, 1) := by
  decide +kernel

/-- IM6, IM7, IM8. -/
theorem test_ldF :
    ([0x0A, 0x00, 0x0F, 0xFF] : List Byte).map (fun b => part State.i (ran 0xF029 (regs [(0, b)] State.reset))) =
      [some 0x082, some 0x050, some 0x09B, some 0x54B] := by decide +kernel

/-- IM9, IM10. -/
theorem test_ldB :
    ([234, 0, 7, 255, 100] : List Byte).map
      (fun b => part (State.peekBytes · 0x300 3) (ran 0xF033 (regs [(0, b)] (State.reset.setIndex 0x300)))) =
      [some [2, 3, 4], some [0, 0, 0], some [0, 0, 7], some [2, 5, 5], some [1, 0, 0]] := by decide +kernel

/-- IM11, IM12. -/
theorem test_ldB_edges :
    stop (ran 0xF033 (State.reset.setIndex 0xFFE)) = some (.memoryOutOfRange 0xF033 0x200 0x1000) ∧
    part (State.peekBytes · 0xFFD 3) (ran 0xF033 (regs [(0, 0x99)] (State.reset.setIndex 0xFFD))) = some [1, 5, 3] := by
  decide +kernel

/-- IM13, IM14. -/
theorem test_ldMemVx :
    part (fun s => (s.peekBytes 0x300 4, s.i)) (ran 0xF255 (regs [(0, 1), (1, 2), (2, 3), (3, 9)] (State.reset.setIndex 0x300))) =
      some ([1, 2, 3, 0], 0x300) ∧
    part (fun s => (s.peekBytes 0x300 4, s.i))
      (ran 0xF255 (regs [(0, 1), (1, 2), (2, 3), (3, 9)]
        ((resetWith fun c => { c with loadstoreIndexIncrement := true }).setIndex 0x300))) = some ([1, 2, 3, 0], 0x303) := by
  decide +kernel

/-- IM16 (V15 = 15 at 0xFFF), IM17. -/
theorem test_ldMemVx_edges :
    part (State.peek · 0xFFF) (ran 0xFF55 (regs [(0xF, 15)] (State.reset.setIndex 0xFF0))) = some 15 ∧
    stop (ran 0xFF55 (State.reset.setIndex 0xFF1)) = some (.memoryOutOfRange 0xFF55 0x200 0x1000) := by decide +kernel

/-- IM15. -/
theorem test_ldVxMem :
    part (fun s => (s.reg 0, s.reg 1, s.reg 2, s.reg 3))
      (ran 0xF265 ((regs [(3, 9)] (State.reset.setIndex 0x300)).pokeBytes 0x300 [2, 3, 4, 5])) = some (2, 3, 4, 9) := by
  decide +kernel

/-- IM18, IM19. -/
theorem test_ldVxMem_edges :
    part (State.reg · 0) (ran 0xF065 ((State.reset.setIndex 0xFFF).pokeBytes 0xFFF [0x5A])) = some 0x5A ∧
    part (State.reg · 0xF) (ran 0xFF65 ((State.reset.setIndex 0x300).pokeBytes 0x30F [0x42])) = some 0x42 := by decide +kernel

/-! ## Display (44_display.md) -/

/-- DS1, DS2. -/
theorem test_drw_twice :
    part (fun s => (setCells s, s.reg flagReg, s.dirty)) (ran 0xD011 (sprite [0x80] 0 0)) = some ([(0, 0)], 0, true) ∧
    part (fun s => (setCells s, s.reg flagReg)) (ran 0xD011 (orElse State.reset (ran 0xD011 (sprite [0x80] 0 0)))) =
      some ([], 1) := by decide +kernel

/-- DS3, DS4, DS5: wrapping in both directions. -/
theorem test_drw_wraps :
    part setCells (ran 0xD011 (sprite [0xC0] 63 31)) = some [(31, 0), (31, 63)] ∧
    part setCells (ran 0xD012 (sprite [0x80, 0x80] 0 31)) = some [(0, 0), (31, 0)] ∧
    part setCells (ran 0xD011 (sprite [0xFF] 70 40)) =
      some [(8, 6), (8, 7), (8, 8), (8, 9), (8, 10), (8, 11), (8, 12), (8, 13)] := by decide +kernel

/-- DS7, with the flag left alone under DRAW_VF_NO_COLLISION = unchanged, and DS8. -/
theorem test_drw_flag :
    part (fun s => (setCells s, s.reg flagReg))
      (ran 0xD011 (orElse State.reset (ran 0xD011 (sprite [0x80] 0 0)) |>.pokeBytes 0x300 [0x40])) =
        some ([(0, 0), (0, 1)], 0) ∧
    part (fun s => s.reg flagReg)
      (ran 0xD010 (regs [(0xF, 5)] (resetWith fun c => { c with drawVfNoCollision := .unchanged }))) = some 5 ∧
    part (fun s => (setCells s, s.reg flagReg, s.dirty)) (ran 0xD010 (regs [(0xF, 5)] State.reset)) = some ([], 0, true) := by
  decide +kernel

/-- DS9, DS10, DS11. -/
theorem test_drw_edges :
    stop (ran 0xD013 (State.reset.setIndex 0xFFE)) = some (.memoryOutOfRange 0xD013 0x200 0x1000) ∧
    part State.dirty (ran 0xD012 (State.reset.setIndex 0xFFE)) = some true ∧
    part (fun s => (setCells s, s.reg flagReg)) (ran 0xDF11 (regs [(0xF, 5)] (sprite [0x80] 0 0))) = some ([(0, 5)], 0) := by
  decide +kernel

/-- DS13: the glyph 0 of the default font. -/
theorem test_drw_glyph :
    part setCells (ran 0xD005 (State.reset.setIndex 0x050)) =
      some [(0, 0), (0, 1), (0, 2), (0, 3), (1, 0), (1, 3), (2, 0), (2, 3), (3, 0), (3, 3), (4, 0), (4, 1), (4, 2), (4, 3)] := by
  decide +kernel

/-- DS12, E2. -/
theorem test_cls :
    part (fun s => (setCells s, s.dirty))
      (ran 0x00E0 (State.reset.setDisplay (Vector.replicate 32 (Vector.replicate 64 true)))) = some ([], false) := by
  decide +kernel

/-! ## Keys and timers (45_timers_input.md) -/

/-- V0 = 5 and key 5 as given. -/
def keyFive (pressed : Bool) : State :=
  regs [(0, 5)] { State.reset with keys := State.reset.keys.set 5 pressed }

/-- KT1, KT2, KT4. -/
theorem test_skp :
    [part State.pc (ran 0xE09E (keyFive true)), part State.pc (ran 0xE09E (keyFive false))] = [some 0x204, some 0x202] ∧
    stop (ran 0xE09E (regs [(0, 0x10)] State.reset)) = some (.keyOutOfRange 0xE09E 0x200 0x10) := by decide +kernel

/-- KT3, KT4. -/
theorem test_sknp :
    [part State.pc (ran 0xE0A1 (keyFive true)), part State.pc (ran 0xE0A1 (keyFive false))] = [some 0x202, some 0x204] ∧
    stop (ran 0xE0A1 (regs [(0, 0x10)] State.reset)) = some (.keyOutOfRange 0xE0A1 0x200 0x10) := by decide +kernel

/-- KT5, and the tick that comes before it. -/
theorem test_ldVxDt :
    part (State.reg · 3) (ran 0xF307 (State.reset.setDelay 0x20)) = some 0x20 ∧
    part (State.reg · 3) (ran 0xF307 ((resetWith fun c => { c with speed := 0 }).setDelay 3)) = some 2 := by decide +kernel

/-- KT6. -/
theorem test_ldDtVx : part State.dt (ran 0xF015 (regs [(0, 3)] State.reset)) = some 3 := by decide +kernel

/-- KT7, KT8. -/
theorem test_ldStVx :
    part (fun s => (s.st, soundActive s)) (ran 0xF018 (regs [(0, 10)] State.reset)) = some (10, true) ∧
    part (fun s => (s.st, soundActive s)) (ran 0xF018 (State.reset.setSound 4)) = some (0, false) := by decide +kernel

/-- KT9, KT10. -/
theorem test_ldVxK :
    part (fun s => (s.pc, s.reg 5, s.dirty)) (ran 0xF50A (regs [(5, 1)] (State.reset.setPc 0x300))) =
      some (0x300, 1, false) ∧
    part (fun s => (s.reg 5, s.pc, s.lrk)) (ran 0xF50A (orElse State.reset (release 7 (State.reset.setPc 0x300)))) =
      some (7, 0x302, none) := by decide +kernel

/-- KT11, KT12. -/
theorem test_ldVxK_host :
    part (State.reg · 5) (ran 0xF50A (orElse State.reset (release 9 (orElse State.reset (release 3 State.reset))))) = some 9 ∧
    part (fun s => (s.pc, s.keys[4])) (ran 0xF50A (orElse State.reset (press 4 (State.reset.setPc 0x300)))) =
      some (0x300, true) := by decide +kernel

/-! ## The host interface (60_exceptions.md, 70_reset_and_hazards.md) -/

/-- KT14, KT15. -/
theorem test_host_keys :
    part (fun s => (s.keys[2], s.lrk)) (release 2 State.reset) = some (false, some 2) ∧
    (press 16 State.reset matches .refused (.notAKey 16)) = true := by decide +kernel

/-- CN4, on a short program: font, gaps, program. -/
theorem test_construct :
    (construct Config.default [0x12, 0x34]).toOption.map
      (fun s => (s.peekBytes 0x04F 3, s.peekBytes 0x09E 3, s.peekBytes 0x1FF 4, s.pc)) =
      some ([0x00, 0xF0, 0x90], [0x80, 0x80, 0x00], [0x00, 0x12, 0x34, 0x00], 0x200) := by decide +kernel

/-- 60_exceptions.md R221 to R226: the codes. -/
theorem test_fault_codes :
    [Fault.code (.unimplemented 0 0), Fault.code (.stackUnderflow 0 0), Fault.code (.stackOverflow 0 0),
      Fault.code (.fetchOutOfRange 0), Fault.code (.memoryOutOfRange 0 0 0), Fault.code (.keyOutOfRange 0 0 0)] =
      [1, 2, 3, 4, 5, 6] := by decide +kernel

/-! ## Data that meet the hypotheses of the obligations -/

/-- Whether an answer is a next state. -/
def isNext (a : Answer) : Bool := (part (fun _ => ()) a).isSome

/-- The hypothesis `step s = .next t` (or `exec i s = .next t`) is met as soon as the answer is a next state. -/
theorem exists_next {a : Answer} (h : isNext a = true) : ∃ t, a = .next t := by
  cases a with
  | next s => exact ⟨s, rfl⟩
  | fault r => cases h
  | refused r => cases h

theorem witness_EncodeOfDecode : decode 0xD123 = some (.drw 1 2 3) ∧ decode 0xFF65 = some (.ldVxMem 0xF) := by decide +kernel

theorem witness_StepRunsDecodedInstruction :
    (placed 0x600A State.reset).status = .running ∧ (placed 0x600A State.reset).pc.toNat + 1 ≤ 0xFFF ∧
    decode ((placed 0x600A State.reset).peek (placed 0x600A State.reset).pc.toNat ++
      (placed 0x600A State.reset).peek ((placed 0x600A State.reset).pc.toNat + 1)) = some (.ldImm 0 0x0A) := by decide +kernel

/-- The last place a word fits, 0xFFE. -/
theorem witness_PlacedWordIsExecuted :
    (State.reset.setPc 0xFFE).status = .running ∧
    (State.reset.setPc 0xFFE).mem.wf (State.reset.setPc 0xFFE).cfg.font = true ∧
    (State.reset.setPc 0xFFE).pc.toNat + 1 ≤ 0xFFF := by decide +kernel

theorem witness_FetchSeesStoredBytes :
    State.reset.mem.wf State.reset.cfg.font = true ∧ 0xFFD + ([0xAA, 0x12, 0x00] : List Byte).length ≤ 0x1000 ∧
    ([0xAA, 0x12, 0x00] : List Byte)[1]? = some 0x12 ∧ ([0xAA, 0x12, 0x00] : List Byte)[1 + 1]? = some 0x00 := by decide +kernel

/-- ACC 11 meets the first clause at speed 700, ACC 10 the second (ST1, ST2), and a step that runs Fx07 the third. -/
theorem witness_TimerTickCountsAndDecrements :
    60 * ({ State.reset with acc := 11 }.acc + 1) > State.reset.cfg.speed ∧
    ¬ 60 * ({ State.reset with acc := 10 }.acc + 1) > State.reset.cfg.speed ∧
    (∃ t, step (placed 0xF307 State.reset) = .next t) ∧
    decode ((placed 0xF307 State.reset).peek 0x200 ++ (placed 0xF307 State.reset).peek (0x200 + 1)) = some (.ldVxDt 3) :=
  ⟨by decide, by decide, exists_next (by decide +kernel), by decide +kernel⟩

theorem witness_TimersDecrementOncePerPeriod : State.reset.acc = 0 := rfl

/-- A run of two steps from the largest ACC below the period. -/
theorem witness_RunsCountStepsModuloPeriod :
    (∃ t, Sys2Proof.core.run 2 { placed 0x1200 State.reset with acc := 11 } = .next t) ∧
    { placed 0x1200 State.reset with acc := 11 }.acc < State.reset.cfg.speed / 60 + 1 :=
  ⟨exists_next (by decide +kernel), by decide⟩

/-- 0xFFF is the least PC out of range, 0xFFE the last in range. -/
theorem witness_FetchFaultsExactlyOutOfRange :
    (State.reset.setPc 0xFFF).status = .running ∧ (State.reset.setPc 0xFFF).pc.toNat + 1 > 0xFFF ∧
    ¬ (State.reset.setPc 0xFFE).pc.toNat + 1 > 0xFFF := by decide +kernel

theorem witness_UnmatchedWordFaults :
    State.reset.status = .running ∧ State.reset.pc.toNat + 1 ≤ 0xFFF ∧
    (∀ r ∈ opcodeTable, r.holds (State.reset.peek State.reset.pc.toNat ++ State.reset.peek (State.reset.pc.toNat + 1)) = false) :=
  ⟨by decide, by decide, by decide +kernel⟩

/-- A fault without a word, and one with a word. -/
theorem witness_FaultsNameWordAndAddress :
    stop (step (State.reset.setPc 0x10FE)) = some (.fetchOutOfRange 0x10FE) ∧ (Fault.fetchOutOfRange 0x10FE).word = none ∧
    stop (ran 0x00EE State.reset) = some (.stackUnderflow 0x00EE 0x200) ∧
    (Fault.stackUnderflow 0x00EE 0x200).word = some 0x00EE := by decide +kernel

theorem witness_FaultedCoreHasNoStep :
    { State.reset with status := .faulted (.fetchOutOfRange 0xFFF) }.status = .faulted (.fetchOutOfRange 0xFFF) := rfl

theorem witness_HostSeesOutcomeAndFaultIsTerminal :
    step State.reset = .fault (.unimplemented 0x0000 0x200) ∧ ∃ t, step (placed 0x1200 State.reset) = .next t :=
  ⟨rfl, exists_next (by decide +kernel)⟩

theorem witness_LastReleasedKeyClearedByEveryStep : ∃ t, step (placed 0x6000 { State.reset with lrk := some 3 }) = .next t :=
  exists_next (by decide +kernel)

/-- Draw-sprite, clear-display and another instruction. -/
theorem witness_DirtyExactlyForDrawSprite :
    [0xD000, 0x00E0, 0x6000].map (fun w => decode ((placed w State.reset).peek 0x200 ++ (placed w State.reset).peek (0x200 + 1))) =
      [some (.drw 0 0 0), some .cls, some (.ldImm 0 0)] ∧
    [0xD000, 0x00E0, 0x6000].all (fun w => isNext (ran w State.reset)) = true := by decide +kernel

/-- Each kind of check at its boundary: failing, and passing. -/
theorem witness_OwnCheckAloneDecidesFault :
    ownCheckFault .ret State.reset = some (.stackUnderflow 0x00EE 0x1FE) ∧
    ownCheckFault (.call 0x300) (State.reset.setStack (List.replicate 16 0x202)) = some (.stackOverflow 0x2300 0x1FE) ∧
    ownCheckFault (.call 0x300) (State.reset.setStack (List.replicate 15 0x202)) = none ∧
    ownCheckFault (.skp 0) (regs [(0, 16)] State.reset) = some (.keyOutOfRange 0xE09E 0x1FE 16) ∧
    ownCheckFault (.sknp 0) (regs [(0, 15)] State.reset) = none ∧
    ownCheckFault (.ldB 0) (State.reset.setIndex 0xFFE) = some (.memoryOutOfRange 0xF033 0x1FE 0x1000) ∧
    ownCheckFault (.ldB 0) (State.reset.setIndex 0xFFD) = none ∧
    ownCheckFault (.drw 0 1 0) (State.reset.setIndex 0x1000) = none ∧
    ownCheckFault (.ldMemVx 0) (State.reset.setIndex 0x1000) = some (.memoryOutOfRange 0xF055 0x1FE 0x1000) := by
  decide +kernel

/-- A state that is not the reset state: a call has been made, and the next word returns. -/
def inSubroutine : State := ((State.reset.setStack [0x206]).setPc 0x210).pokeBytes 0x210 [0x00, 0xEE]

theorem inSubroutine_inv : Inv inSubroutine where
  memory := by decide +kernel
  index := by decide +kernel
  pc := by decide +kernel
  stackEntries := fun a h => by
    have ha : a = 0x206 := List.mem_singleton.1 h
    subst ha; decide
  stackDepth := fun limit h => by
    have hl : (some 16 : Option Nat) = some limit := h
    cases hl; decide +kernel
  acc := by decide +kernel

theorem witness_StepKeepsInvariant : Inv inSubroutine ∧ ∃ t, step inSubroutine = .next t :=
  ⟨inSubroutine_inv, exists_next (by decide +kernel)⟩

theorem witness_ReachableStatesMeetInvariant : Reachable Config.default State.reset := .construct (program := []) rfl

/-- Each writer changes what it is named for: stack, I, DT, ST, the display, memory. -/
theorem witness_OnlyNamedInstructionsWrite :
    [part (fun t => decide (t.stack ≠ [])) (exec (.call 0x300) State.reset),
      part (fun t => decide (t.i ≠ 0)) (exec (.ldI 1) State.reset),
      part (fun t => decide (t.dt ≠ 0)) (exec (.ldDtVx 0) (regs [(0, 1)] State.reset)),
      part (fun t => decide (t.st ≠ 0)) (exec (.ldStVx 0) (regs [(0, 1)] State.reset)),
      part (fun t => decide (t.disp ≠ State.reset.disp)) (exec (.drw 0 0 1) (State.reset.setIndex 0x050)),
      part (fun t => decide (t.mem ≠ [])) (exec (.ldB 0) (regs [(0, 1)] (State.reset.setIndex 0x300)))].all
      (fun a => a = some true) = true := by decide +kernel

theorem witness_OnlyNamedInstructionsWriteFlag :
    [Instr.addReg 0 0, .addI 0, .drw 0 0 0, .ldImm 0xF 1].map
      (fun i => part (fun t => t.reg flagReg) (exec i (regs [(0, 1), (0xF, 5)] (State.reset.setIndex 0xFFF)))) =
      [some 0, some 1, some 0, some 1] := by decide +kernel

/-- CN1, CN2: the longest program that loads, and one byte more. -/
theorem witness_ConstructionSetsResetState :
    (List.replicate 3584 (0x60 : Byte)).length ≤ 3584 ∧ (List.replicate 3585 (0x60 : Byte)).length > 3584 := by
  simp only [List.length_replicate]; decide

theorem witness_HostKeyOperations : 15 < 16 ∧ 16 ≤ 16 := by decide

/-- A stack with an entry, and an empty one. -/
theorem witness_ReturnPopsOrFaults :
    (State.reset.setStack [0x202, 0x206]).stack = [0x202] ++ [0x206] ∧ State.reset.stack = [] := ⟨rfl, rfl⟩

/-- 15 entries and 16 entries under the default limit of 16 (CF5, CF6), and no limit. -/
theorem witness_CallPushesOrFaults :
    State.reset.cfg.stackLimit = some 16 ∧ (State.reset.setStack (List.replicate 15 0x202)).stack.length < 16 ∧
    16 ≤ (State.reset.setStack (List.replicate 16 0x202)).stack.length ∧
    (resetWith fun c => { c with stackLimit := none }).cfg.stackLimit = none := by decide +kernel

theorem witness_ReturnUndoesCall :
    ∃ t u : State, exec (.call 0x210) (State.reset.setPc 0x206) = .next t ∧ u.stack = t.stack :=
  ⟨_, _, rfl, rfl⟩

/-- The largest target a self-jump can stand at, 0xFFE. -/
theorem witness_SelfJumpRunsForever :
    (placed 0x1FFE (State.reset.setPc 0xFFE)).status = .running ∧ (0xFFE : Addr).toNat < 0xFFF ∧
    (placed 0x1FFE (State.reset.setPc 0xFFE)).pc.toNat = (0xFFE : Addr).toNat ∧
    decode ((placed 0x1FFE (State.reset.setPc 0xFFE)).peek 0xFFE ++ (placed 0x1FFE (State.reset.setPc 0xFFE)).peek (0xFFE + 1)) =
      some (.jp 0xFFE) := by decide +kernel

/-- A sum of 0x1000 wraps and one of 0xFFF does not (IM2, IM4); I = 0x1000 is the bound's edge. -/
theorem witness_AddToIndexWraps :
    (State.reset.setIndex 0x1000).i.toNat ≤ 0x1000 ∧
    (State.reset.setIndex 0xFFF).i.toNat + ((regs [(0, 1)] (State.reset.setIndex 0xFFF)).reg 0).toNat > 0xFFF ∧
    (State.reset.setIndex 0xF00).i.toNat + ((regs [(0, 0xFF)] (State.reset.setIndex 0xF00)).reg 0).toNat ≤ 0xFFF := by
  decide +kernel

/-- The last I that fits, 0xFFD, and the first that does not (IM11, IM12). -/
theorem witness_StoreDigits :
    (State.reset.setIndex 0xFFD).mem.wf State.reset.cfg.font = true ∧ (State.reset.setIndex 0xFFD).i.toNat + 2 ≤ 0xFFF ∧
    (State.reset.setIndex 0xFFE).i.toNat + 2 > 0xFFF := by decide +kernel

/-- The last I that fits for VF, 0xFF0, and the first that does not (IM16, IM17). -/
theorem witness_RegisterDump :
    (State.reset.setIndex 0xFF0).mem.wf State.reset.cfg.font = true ∧
    (State.reset.setIndex 0xFF0).i.toNat + (0xF : Reg).toNat ≤ 0xFFF ∧
    (State.reset.setIndex 0xFF1).i.toNat + (0xF : Reg).toNat > 0xFFF := by decide +kernel

/-- The same edges for the load, and both kinds of register for x = 2. -/
theorem witness_RegisterLoad :
    (State.reset.setIndex 0xFF0).i.toNat + (0xF : Reg).toNat ≤ 0xFFF ∧
    (State.reset.setIndex 0xFF1).i.toNat + (0xF : Reg).toNat > 0xFFF ∧
    (2 : Reg).toNat ≤ (2 : Reg).toNat ∧ (2 : Reg).toNat < (3 : Reg).toNat := by decide +kernel

/-- Every cell is false at reset (70_reset_and_hazards.md R250). -/
theorem reset_cell (r : Fin 32) (c : Fin 64) : State.reset.disp[r][c] = false := by simp [State.reset, State.initial]

/-- I = 0xFFE with two rows fits and with three does not (DS9, DS10); a draw that collides and one that does not (DS6, DS7). -/
theorem witness_DrawSpriteXorsCells :
    ((2 : Nibble) ≠ 0 → (State.reset.setIndex 0xFFE).i.toNat + (2 : Nibble).toNat - 1 ≤ 0xFFF) ∧
    ((3 : Nibble) ≠ 0 ∧ (State.reset.setIndex 0xFFE).i.toNat + (3 : Nibble).toNat - 1 > 0xFFF) ∧
    spriteCollides ((sprite [0x80] 0 0).setDisplay (Vector.replicate 32 (Vector.replicate 64 true))) 0 0 1 ∧
    ¬ spriteCollides (sprite [0x80] 0 0) 0 0 1 := by
  refine ⟨by decide +kernel, by decide +kernel, ⟨0, 0, by decide +kernel, by decide +kernel⟩, ?_⟩
  rintro ⟨r, c, h, -⟩
  have hf : State.reset.disp[r][c] = true := h
  rw [reset_cell] at hf
  cases hf

/-- The font's glyph 0, drawn at (0, 0) on a clear display and then again, with a row that has a 1 bit. -/
theorem witness_DrawTwiceRestoresDisplay :
    ∃ s t u w : State, exec (.drw 0 1 5) s = .next t ∧ u.disp = t.disp ∧ u.mem = s.mem ∧ u.cfg = s.cfg ∧ u.i = s.i ∧
      u.reg 0 = s.reg 0 ∧ u.reg 1 = s.reg 1 ∧ exec (.drw 0 1 5) u = .next w ∧
      (∀ (r : Fin 32) (c : Fin 64), spriteCovers s (s.reg 0).toNat (s.reg 1).toNat (5 : Nibble).toNat r c = true →
        s.disp[r][c] = false) ∧
      ∃ (row : Fin 16) (b : Fin 8), row.val < (5 : Nibble).toNat ∧ (s.peek (s.i.toNat + row.val)).getLsbD b.val = true := by
  obtain ⟨t, ht⟩ := exists_next (a := exec (.drw 0 1 5) (State.reset.setIndex 0x050)) (by decide +kernel)
  obtain ⟨w, hw⟩ := exists_next (a := exec (.drw 0 1 5) ((State.reset.setIndex 0x050).setDisplay t.disp)) rfl
  exact ⟨_, t, (State.reset.setIndex 0x050).setDisplay t.disp, w, ht, rfl, rfl, rfl, rfl, rfl, rfl, hw,
    fun r c _ => reset_cell r c, 0, 7, by decide +kernel, by decide +kernel⟩

/-- The last key, 15, and the first value that is no key, 16. -/
theorem witness_KeySkips :
    ((regs [(0, 15)] State.reset).reg 0).toNat < 16 ∧ ((regs [(0, 16)] State.reset).reg 0).toNat > 15 := by decide +kernel

/-- A release that stands, and none. -/
theorem witness_BlockForKeyRelease :
    { State.reset with lrk := some 15 }.lrk = some 15 ∧ State.reset.lrk = none := ⟨rfl, rfl⟩

theorem witness_KeyWaitHoldsUntilRelease :
    (placed 0xF50A State.reset).status = .running ∧ (placed 0xF50A State.reset).lrk = none ∧
    (placed 0xF50A State.reset).pc.toNat + 1 ≤ 0xFFF ∧
    decode ((placed 0xF50A State.reset).peek 0x200 ++ (placed 0xF50A State.reset).peek (0x200 + 1)) = some (.ldVxK 5) := by
  decide +kernel

end Sys2Proof.Tests
end

/-! ## Laws the state proofs need: stores, skips, and the answers of the branching instructions -/

namespace Sys2Proof.Machine

/-- A write leaves what every other address lists, canonical memory or not. -/
theorem Memory.lookup_write_of_ne (font : Font) {m : Memory} {a b : Nat} {v : Byte} (h : b ≠ a) :
    (Memory.write font m a v).lookup b = m.lookup b := by
  induction m with
  | nil => by_cases hv : v = unlisted font a <;> simp [write, lookup, hv, h]
  | cons c m ih =>
    rcases lt_trichotomy c.1 a with hlt | heq | hgt
    · simp [write, lookup, hlt, ih]
    · subst heq
      by_cases hv : v = unlisted font c.1 <;> simp [write, lookup, hv, h]
    · by_cases hv : v = unlisted font a <;> simp [write, lookup, hv, h, hgt.ne', hgt.not_gt]

/-- Writing several bytes leaves how every address outside them reads, canonical memory or not. -/
theorem Memory.read_writeBytes_of_notMem (font : Font) {m : Memory} {a b : Nat} {bs : List Byte}
    (h : ¬ (a ≤ b ∧ b < a + bs.length)) : (Memory.writeBytes font m a bs).read font b = m.read font b := by
  induction bs generalizing m a with
  | nil => rfl
  | cons c bs ih =>
    simp only [List.length_cons] at h
    have hne : b ≠ a := by omega
    rw [writeBytes, ih (by omega), read, read, lookup_write_of_ne font hne]

/-- A register-or-immediate skip skips or does nothing (41_control_flow.md R120). -/
theorem skipIf_next {c : Bool} {s t : State} (h : skipIf c s = .next t) : t = s ∨ t = s.skip := by
  cases h; cases c
  · exact .inl rfl
  · exact .inr rfl

/-- A key skip that answers a next state skips or does nothing (45_timers_input.md R200, R201). -/
theorem skipIfKey_next {i : Instr} {x : Reg} {p : Bool} {s t : State} (h : skipIfKey i x p s = .next t) :
    t = s ∨ t = s.skip := by
  rcases skipIfKey_cases i x p s with ⟨_, h'⟩ | ⟨-, h'⟩ <;> rw [h'] at h <;> cases h
  split
  · exact .inr rfl
  · exact .inl rfl

/-- A return that answers a next state popped the last pushed address into PC (41_control_flow.md R121). -/
theorem execRet_next {s t : State} (h : execRet s = .next t) : ∃ a, s.top = some a ∧ t = s.dropTop.setPc a := by
  unfold execRet raise at h
  split at h
  · cases h
  · next a ha => cases h; exact ⟨a, ha, rfl⟩

/-- A call that answers a next state found room on the stack and pushed PC (41_control_flow.md R123). -/
theorem execCall_next {nnn : Addr} {s t : State} (h : execCall nnn s = .next t) :
    s.stackFull = false ∧ t = (s.push s.pc).setPc (addrOperand nnn) := by
  unfold execCall raise at h
  split at h
  · cases h
  · next hfull => cases h; exact ⟨by simpa using hfull, rfl⟩

/-- A key wait stores the released key, or takes PC back (45_timers_input.md R205). -/
theorem execLdVxK_next {x : Reg} {s t : State} (h : execLdVxK x s = .next t) :
    (∃ k, s.lrk = some k ∧ t = s.setReg x (keyByte k)) ∨ (s.lrk = none ∧ t = s.rewind) := by
  unfold execLdVxK at h
  split at h
  · next k hk => cases h; exact .inl ⟨k, hk, rfl⟩
  · next hk => cases h; exact .inr ⟨hk, rfl⟩

/-- An addition to I either wraps to 12 bits and sets VF, or only moves I (43_index_memory.md R172). -/
theorem execAddI_next {x : Reg} {s t : State} (h : execAddI x s = .next t) :
    (s.i.toNat + (s.reg x).toNat > 0xFFF ∧
      t = (s.setIndex (BitVec.ofNat 16 ((s.i.toNat + (s.reg x).toNat) % 0x1000))).setReg flagReg 1) ∨
    (s.i.toNat + (s.reg x).toNat ≤ 0xFFF ∧ t = s.setIndex (BitVec.ofNat 16 (s.i.toNat + (s.reg x).toNat))) := by
  unfold execAddI at h
  cases h
  by_cases ht : s.i.toNat + (s.reg x).toNat > 0xFFF
  · exact .inl ⟨ht, by simp [ht, State.setFlag]⟩
  · exact .inr ⟨by omega, by simp [ht]⟩

/-- A stack of a bounded core that is not full has room for one more address (10_state.md R30). -/
theorem State.length_lt_of_not_stackFull {s : State} {limit : Nat} (h : s.stackFull = false)
    (hl : s.cfg.stackLimit = some limit) : s.stack.length < limit := by
  simpa [State.stackFull, hl] using h

/-! ## What each instruction may change -/

/-- The registers V0..Vx, which a register load writes (43_index_memory.md R176). -/
def blockRegs (x : Reg) : List Reg := ((List.finRange 16).map BitVec.ofFin).filter (· ≤ x)

@[simp] theorem mem_blockRegs {x y : Reg} : y ∈ blockRegs x ↔ y ≤ x := by
  have hy : ∃ a : Fin 16, BitVec.ofFin a = y := ⟨y.toFin, rfl⟩
  simp [blockRegs, hy]

/-- What instruction `i` may change from state `s`, read off the rules of 41_control_flow.md to 45_timers_input.md. -/
def effectsOf (i : Instr) (s : State) : Effects :=
  match i with
  | .cls => { display := true, dirty := true }
  | .ret | .call _ => { pc := true, stack := true }
  | .jp _ | .jpV0 _ | .seImm _ _ | .sneImm _ _ | .seReg _ _ | .sneReg _ _ | .skp _ | .sknp _ => { pc := true }
  | .ldImm x _ | .addImm x _ | .ldReg x _ | .orReg x _ | .andReg x _ | .xorReg x _ | .ldVxDt x => { regs := [x] }
  | .addReg x _ | .subReg x _ | .shrReg x _ | .subnReg x _ | .shlReg x _ => { regs := [x, flagReg] }
  | .rnd x _ => { regs := [x], draws := true }
  | .drw _ _ _ => { regs := [flagReg], display := true, dirty := true }
  | .ldVxK x => { regs := if s.lrk.isSome then [x] else [], pc := s.lrk.isNone }
  | .ldDtVx _ => { delay := true }
  | .ldStVx _ => { sound := true }
  | .ldI _ | .ldF _ => { index := true }
  | .addI x => { regs := if s.i.toNat + (s.reg x).toNat > 0xFFF then [flagReg] else [], index := true }
  | .ldB _ => { stored := (s.i.toNat, 3) }
  | .ldMemVx x => { index := s.cfg.loadstoreIndexIncrement, stored := (s.i.toNat, blockLength x) }
  | .ldVxMem x => { regs := blockRegs x, index := s.cfg.loadstoreIndexIncrement }

/-- A frame in which, further, memory is the same list where nothing is stored. -/
structure Changes (e : Effects) (s t : State) : Prop extends Frame e s t where
  mem : e.stored.2 = 0 → t.mem = s.mem

/-- A skip, taken or not, changes PC (41_control_flow.md R120). -/
theorem changes_skip {s t : State} (h : t = s ∨ t = s.skip) : Changes { pc := true } s t := by
  rcases h with rfl | rfl
  · exact ⟨frame_refl _ _, fun _ => rfl⟩
  · exact ⟨frame_setPc s _, fun _ => rfl⟩

/-- A register write changes that register (10_state.md R22). -/
theorem changes_setReg (s : State) (x : Reg) (b : Byte) : Changes { regs := [x] } s (s.setReg x b) :=
  ⟨frame_setReg s x b, fun _ => rfl⟩

/-- `write_result_and_flag` changes the destination and VF (42_register_alu.md R141). -/
theorem changes_writeResultAndFlag (s : State) (x : Reg) (r f : Byte) :
    Changes { regs := [x, flagReg] } s (s.writeResultAndFlag x r f) :=
  ⟨frame_writeResultAndFlag s x r f, fun _ => by rw [State.writeResultAndFlag_eq]; rfl⟩

/-- A store changes the bytes stored (20_memory.md R60), also where memory is not canonical, so that `exec_changes` needs no
premise. -/
theorem frame_store (s : State) (a : Nat) (bs : List Byte) :
    Frame { stored := (a, bs.length) } s (s.pokeBytes a bs) :=
  Frame.ofFields (fun _ _ => rfl) (fun _ hb => Memory.read_writeBytes_of_notMem s.cfg.font hb) rfl (fun _ => rfl)

/-- I moves after a register block only under LOADSTORE_INDEX_INCREMENT (43_index_memory.md R175, R176). -/
theorem State.advanceIndex_i_of_false {s : State} (x : Reg) (h : s.cfg.loadstoreIndexIncrement = false) :
    (s.advanceIndex x).i = s.i := by
  simp [State.advanceIndex, h]

/-- A draw changes VF, the display and `dirty` (44_display.md R191). -/
theorem changes_draw (s : State) (d : Display) (c : Bool) :
    Changes { regs := [flagReg], display := true, dirty := true } s
      (((s.setDisplay d).setCollision c).setDirty true) := by
  have hreg : ∀ y, y ∉ [flagReg] → ((s.setDisplay d).setCollision c).reg y = s.reg y := fun y hy => by
    rw [State.reg_setCollision, if_neg fun h => hy (by simp [h.1])]; rfl
  rw [State.setCollision_eq] at hreg ⊢
  exact ⟨{ frame_refl s {} with regs := hreg, display := nofun, dirty := nofun }, fun _ => rfl⟩

/-- A register dump changes the bytes stored, and I under LOADSTORE_INDEX_INCREMENT (43_index_memory.md R175). -/
theorem changes_dump (s : State) (x : Reg) :
    Changes (effectsOf (.ldMemVx x) s) s ((s.pokeBytes s.i.toNat (blockValues s x)).advanceIndex x) := by
  refine ⟨Frame.ofFields (fun y _ => ?_) (fun b hb => ?_) ?_ fun hi => ?_, nofun⟩
  · rw [State.advanceIndex_eq]; rfl
  · rw [State.advanceIndex_eq]
    exact (frame_store s s.i.toNat (blockValues s x)).memory b (by simpa [effectsOf, blockLength] using hb)
  · rw [State.advanceIndex_eq]; rfl
  · exact State.advanceIndex_i_of_false (s := s.pokeBytes _ _) x hi

/-- A load of V0, V1, .. leaves the registers past the bytes loaded (43_index_memory.md R176). -/
theorem State.reg_loadRegs_of_le (s : State) {bs : List Byte} {y : Reg} (h : bs.length ≤ y.toNat) :
    (s.setRegs (loadRegs bs 0 s.v)).reg y = s.reg y := by
  simp [State.reg, getElem_loadRegs, List.getD_eq_getElem?_getD, List.getElem?_eq_none h]

/-- A register load changes V0..Vx, and I under LOADSTORE_INDEX_INCREMENT (43_index_memory.md R176). -/
theorem changes_load (s : State) (x : Reg) :
    Changes (effectsOf (.ldVxMem x) s) s
      ((s.setRegs (loadRegs (s.peekBytes s.i.toNat (blockLength x)) 0 s.v)).advanceIndex x) := by
  refine ⟨Frame.ofFields (fun y hy => ?_) (fun b _ => ?_) ?_ fun hi => ?_, fun _ => ?_⟩
  · have hxy : x.toNat < y.toNat := by simpa [effectsOf, BitVec.lt_def] using hy
    rw [State.advanceIndex_eq]
    exact State.reg_loadRegs_of_le s (by simpa [State.peekBytes, blockLength] using hxy)
  · rw [State.advanceIndex_eq]; rfl
  · rw [State.advanceIndex_eq]; rfl
  · exact State.advanceIndex_i_of_false (s := s.setRegs _) x hi
  · rw [State.advanceIndex_eq]; rfl

/-- Every instruction that answers a next state changes no more than `effectsOf` names. -/
theorem exec_changes {i : Instr} {s t : State} (h : exec i s = .next t) : Changes (effectsOf i s) s t := by
  cases i with
  | cls =>
    cases h
    exact ⟨{ frame_refl s {} with display := nofun, dirty := nofun }, fun _ => rfl⟩
  | ret => obtain ⟨a, -, rfl⟩ := execRet_next h; exact ⟨frame_setStack_setPc s _ a, fun _ => rfl⟩
  | call nnn => obtain ⟨-, rfl⟩ := execCall_next h; exact ⟨frame_setStack_setPc s _ _, fun _ => rfl⟩
  | jp nnn => cases h; exact ⟨frame_setPc s _, fun _ => rfl⟩
  | jpV0 nnn => cases h; exact ⟨frame_setPc s _, fun _ => rfl⟩
  | seImm x nn => exact changes_skip (skipIf_next h)
  | sneImm x nn => exact changes_skip (skipIf_next h)
  | seReg x y => exact changes_skip (skipIf_next h)
  | sneReg x y => exact changes_skip (skipIf_next h)
  | skp x => exact changes_skip (skipIfKey_next h)
  | sknp x => exact changes_skip (skipIfKey_next h)
  | ldImm x nn => cases h; exact changes_setReg s x _
  | addImm x nn => cases h; exact changes_setReg s x _
  | ldReg x y => cases h; exact changes_setReg s x _
  | orReg x y => cases h; exact changes_setReg s x _
  | andReg x y => cases h; exact changes_setReg s x _
  | xorReg x y => cases h; exact changes_setReg s x _
  | ldVxDt x => cases h; exact changes_setReg s x _
  | addReg x y => cases h; exact changes_writeResultAndFlag s x _ _
  | subReg x y => cases h; exact changes_writeResultAndFlag s x _ _
  | shrReg x y => cases h; exact changes_writeResultAndFlag s x _ _
  | subnReg x y => cases h; exact changes_writeResultAndFlag s x _ _
  | shlReg x y => cases h; exact changes_writeResultAndFlag s x _ _
  | rnd x nn =>
    cases h
    exact ⟨{ frame_setReg s x (s.randomByte &&& nn) with draws := nofun }, fun _ => rfl⟩
  | drw x y n => obtain ⟨-, rfl⟩ := checkBounds_next h; exact changes_draw s _ _
  | ldVxK x =>
    rcases execLdVxK_next h with ⟨k, hk, rfl⟩ | ⟨hk, rfl⟩
    · simpa [effectsOf, hk] using changes_setReg s x (keyByte k)
    · simp only [effectsOf, hk]; exact ⟨frame_setPc s _, fun _ => rfl⟩
  | ldDtVx x => cases h; exact ⟨frame_setDelay s _, fun _ => rfl⟩
  | ldStVx x => cases h; exact ⟨frame_setSound s _, fun _ => rfl⟩
  | ldI nnn => cases h; exact ⟨frame_setIndex s _, fun _ => rfl⟩
  | ldF x => cases h; exact ⟨frame_setIndex s _, fun _ => rfl⟩
  | addI x =>
    rcases execAddI_next h with ⟨ht, rfl⟩ | ⟨ht, rfl⟩
    · simp only [effectsOf, ht, if_true]
      exact ⟨Frame.ofFields (frame_setReg s flagReg 1).regs (fun _ _ => rfl) rfl nofun, fun _ => rfl⟩
    · simp only [effectsOf, ht.not_gt, if_false]; exact ⟨frame_setIndex s _, fun _ => rfl⟩
  | ldB x => obtain ⟨-, rfl⟩ := checkBounds_next h; exact ⟨frame_store s s.i.toNat (decimalDigits (s.reg x)), nofun⟩
  | ldMemVx x => obtain ⟨-, rfl⟩ := checkBounds_next h; exact changes_dump s x
  | ldVxMem x => obtain ⟨-, rfl⟩ := checkBounds_next h; exact changes_load s x

end Sys2Proof.Machine

/-! ## The invariant's parts under one instruction (10_state.md R27 to R30) -/

namespace Sys2Proof.Machine

/-- The bound 10_state.md R28 puts on I under a configuration. -/
def indexBound (cfg : Config) : Nat := if cfg.loadstoreIndexIncrement then 0x1000 else 0xFFF

theorem le_indexBound {cfg : Config} {n : Nat} (h : n ≤ 0xFFF) : n ≤ indexBound cfg := by
  unfold indexBound; split <;> omega

/-- An `nnn` operand is zero-extended (30_encoding.md R73). -/
theorem toNat_addrOperand (nnn : Addr) : (addrOperand nnn).toNat = nnn.toNat := by
  rw [addrOperand, BitVec.toNat_setWidth, Nat.mod_eq_of_lt (nnn.isLt.trans (by decide))]

/-- A byte is zero-extended (00_scope.md R8). -/
theorem toNat_zext16 (b : Byte) : (zext16 b).toNat = b.toNat := by
  rw [zext16, BitVec.toNat_setWidth, Nat.mod_eq_of_lt (b.isLt.trans (by decide))]

/-- The target of a jump with offset does not wrap (41_control_flow.md R128). -/
theorem toNat_offsetTarget (nnn : Addr) (s : State) : (offsetTarget nnn s).toNat = nnn.toNat + (s.reg 0).toNat := by
  have hn := nnn.isLt
  have hb := (s.reg 0).isLt
  rw [offsetTarget, BitVec.toNat_add, toNat_addrOperand, toNat_zext16]
  omega

/-- A glyph's address for the whole 8-bit register value (43_index_memory.md R173). -/
theorem toNat_glyphAddr (b : Byte) : (glyphAddr b).toNat = 0x050 + 5 * b.toNat := by
  have hb := b.isLt
  have hmul : (5 * zext16 b).toNat = 5 * b.toNat := by
    rw [BitVec.toNat_mul, toNat_zext16, show (5 : Word).toNat = 5 from rfl]
    omega
  have hbase : (BitVec.ofNat 16 fontBase).toNat = 0x050 := rfl
  rw [glyphAddr, BitVec.toNat_add, hmul, hbase]
  omega

/-- The target of a direct jump or call lies inside memory (10_state.md R27). -/
theorem toNat_addrOperand_le (nnn : Addr) : (addrOperand nnn).toNat ≤ 0xFFF := by
  rw [toNat_addrOperand]; exact Nat.le_of_lt_succ nnn.isLt

/-- I after the access of a register block that passed its bounds check (43_index_memory.md R175, R176). -/
theorem State.advanceIndex_i_le {s : State} {x : Reg} (h : s.i.toNat + blockLength x ≤ 0x1000) :
    (s.advanceIndex x).i.toNat ≤ indexBound s.cfg := by
  unfold blockLength at h
  rw [State.advanceIndex_i (by omega), indexBound]
  split <;> omega

/-- No instruction breaks the canonical form of memory (log 10). -/
theorem exec_mem_wf {i : Instr} {s t : State} (h : exec i s = .next t) (hm : s.mem.wf s.cfg.font = true) :
    t.mem.wf s.cfg.font = true := by
  cases i
  case ldB x =>
    obtain ⟨hb, rfl⟩ := checkBounds_next h
    exact Memory.wf_writeBytes _ hm (hb.resolve_left (by decide))
  case ldMemVx x =>
    obtain ⟨hb, rfl⟩ := checkBounds_next h
    rw [State.advanceIndex_eq]
    refine Memory.wf_writeBytes _ hm ?_
    rw [length_blockValues]
    exact hb.resolve_left (Nat.succ_ne_zero _)
  all_goals rw [(exec_changes h).mem rfl]; exact hm

/-- No instruction takes I past its bound (10_state.md R28). -/
theorem exec_index_le {i : Instr} {s t : State} (h : exec i s = .next t) (hi : s.i.toNat ≤ indexBound s.cfg) :
    t.i.toNat ≤ indexBound s.cfg := by
  cases i
  case ldI nnn => cases h; exact le_indexBound (toNat_addrOperand_le nnn)
  case ldF x =>
    cases h
    have hb := (s.reg x).isLt
    exact le_indexBound (by rw [State.setIndex_i, toNat_glyphAddr]; omega)
  case addI x =>
    apply le_indexBound
    rcases execAddI_next h with ⟨-, rfl⟩ | ⟨ht, rfl⟩
    · simp only [State.setReg_i, State.setIndex_i, BitVec.toNat_ofNat]; omega
    · simp only [State.setIndex_i, BitVec.toNat_ofNat]; omega
  case ldMemVx x =>
    obtain ⟨hb, rfl⟩ := checkBounds_next h
    exact State.advanceIndex_i_le (s := s.pokeBytes _ _) (hb.resolve_left (Nat.succ_ne_zero _))
  case ldVxMem x =>
    obtain ⟨hb, rfl⟩ := checkBounds_next h
    exact State.advanceIndex_i_le (s := s.setRegs _) (hb.resolve_left (Nat.succ_ne_zero _))
  all_goals rw [(exec_changes h).index rfl]; exact hi

/-- PC after a skip, taken or not. -/
theorem pc_le_of_skip {s t : State} (h : t = s ∨ t = s.skip) (hpc : s.pc.toNat ≤ 0x1000) : t.pc.toNat ≤ 0x10FE := by
  have h2 : (2 : Word).toNat = 2 := rfl
  rcases h with rfl | rfl
  · omega
  · rw [State.skip_pc, BitVec.toNat_add]; omega

/-- PC stays bounded over an instruction whose own word was fetched inside memory (10_state.md R27): the largest target is
that of Bnnn. -/
theorem exec_pc_le {i : Instr} {s t : State} (h : exec i s = .next t) (hlo : 2 ≤ s.pc.toNat) (hhi : s.pc.toNat ≤ 0x1000)
    (hst : ∀ a ∈ s.stack, a.toNat ≤ 0x1000) : t.pc.toNat ≤ 0x10FE := by
  cases i
  case ret =>
    obtain ⟨a, ha, rfl⟩ := execRet_next h
    exact (hst a (List.mem_of_getLast? ha)).trans (by decide)
  case call nnn => obtain ⟨-, rfl⟩ := execCall_next h; exact (toNat_addrOperand_le nnn).trans (by decide)
  case jp nnn => cases h; exact (toNat_addrOperand_le nnn).trans (by decide)
  case jpV0 nnn =>
    cases h
    have hn := nnn.isLt
    have hb := (s.reg 0).isLt
    rw [State.setPc_pc, toNat_offsetTarget]; omega
  case seImm => exact pc_le_of_skip (skipIf_next h) hhi
  case sneImm => exact pc_le_of_skip (skipIf_next h) hhi
  case seReg => exact pc_le_of_skip (skipIf_next h) hhi
  case sneReg => exact pc_le_of_skip (skipIf_next h) hhi
  case skp => exact pc_le_of_skip (skipIfKey_next h) hhi
  case sknp => exact pc_le_of_skip (skipIfKey_next h) hhi
  case ldVxK x =>
    have h2 : (2 : Word).toNat = 2 := rfl
    rcases execLdVxK_next h with ⟨k, -, rfl⟩ | ⟨-, rfl⟩
    · rw [State.setReg_pc]; omega
    · rw [State.rewind_pc, BitVec.toNat_sub]; omega
  all_goals rw [(exec_changes h).pc rfl]; omega

/-- An instruction saves no address but PC (10_state.md R29). -/
theorem exec_stack_mem {i : Instr} {s t : State} (h : exec i s = .next t) {a : Word} (ha : a ∈ t.stack) :
    a ∈ s.stack ∨ a = s.pc := by
  cases i
  case ret => obtain ⟨b, -, rfl⟩ := execRet_next h; exact .inl (List.mem_of_mem_dropLast ha)
  case call nnn => obtain ⟨-, rfl⟩ := execCall_next h; simpa using ha
  all_goals rw [(exec_changes h).stack rfl] at ha; exact .inl ha

/-- No instruction takes the stack past its limit (10_state.md R30). -/
theorem exec_stack_length_le {i : Instr} {s t : State} (h : exec i s = .next t) {limit : Nat}
    (hl : s.cfg.stackLimit = some limit) (hs : s.stack.length ≤ limit) : t.stack.length ≤ limit := by
  cases i
  case ret =>
    obtain ⟨b, -, rfl⟩ := execRet_next h
    rw [State.setPc_stack, State.dropTop_stack, List.length_dropLast]; omega
  case call nnn =>
    obtain ⟨hfull, rfl⟩ := execCall_next h
    simpa using State.length_lt_of_not_stackFull hfull hl
  all_goals rw [(exec_changes h).stack rfl]; exact hs

/-! ## The invariant over a step and over a run -/

/-- ACC after a step is the tick's, and a step keeps the configuration (10_state.md R32, R20). -/
theorem step_acc_cfg {s t : State} (h : step s = .next t) : t.acc = (tick s).acc ∧ t.cfg = s.cfg := by
  obtain ⟨-, w, i, u, -, -, he, rfl⟩ := step_next_cases h
  exact ⟨by simpa using (exec_keeps he).acc, by simpa using (exec_keeps he).cfg⟩

/-- A step ends running (60_exceptions.md R220). -/
theorem step_status {s t : State} (h : step s = .next t) : t.status = .running := by
  obtain ⟨hs, w, i, u, -, -, he, rfl⟩ := step_next_cases h
  simpa [hs] using (exec_keeps he).status

/-- During execute, PC is the fetched instruction's address plus 2, so it lies in [2, 0x1000] (40_execution_cycle.md R103). -/
theorem toNat_enterExecute_pc {s : State} (h : s.pc.toNat + 1 ≤ 0xFFF) :
    (enterExecute (tick s)).pc.toNat = s.pc.toNat + 2 := by
  have h2 : (2 : Word).toNat = 2 := rfl
  rw [State.enterExecute_pc, tick_pc, BitVec.toNat_add]; omega

/-- The cleanup writes LRK alone, which the invariant does not read (40_execution_cycle.md R108). -/
theorem Inv.cleanup {s : State} (h : Inv s) : Inv (cleanup s) := { h with }

/-- A step keeps the invariant: each part is kept by the instruction run, and ACC by the tick. -/
theorem step_inv {s t : State} (hinv : Inv s) (h : step s = .next t) : Inv t := by
  obtain ⟨-, w, i, u, hf, -, he, rfl⟩ := step_next_cases h
  have hcfg : u.cfg = s.cfg := by simpa using (exec_keeps he).cfg
  have hrange := (fetch_eq_some.1 hf).1
  have hpc := toNat_enterExecute_pc hrange
  have hstack : ∀ a ∈ (enterExecute (tick s)).stack, a.toNat ≤ 0x1000 := by simpa using hinv.stackEntries
  apply Inv.cleanup
  constructor
  case memory => rw [hcfg]; simpa using exec_mem_wf he (by simpa using hinv.memory)
  case index => rw [hcfg]; simpa [indexBound] using exec_index_le he (by simpa [indexBound] using hinv.index)
  case pc => exact exec_pc_le he (by omega) (by omega) hstack
  case stackEntries =>
    intro a ha
    rcases exec_stack_mem he ha with hold | rfl
    · exact hstack a hold
    · omega
  case stackDepth =>
    intro limit hl
    rw [hcfg] at hl
    exact exec_stack_length_le he (by simpa using hl) (by simpa using hinv.stackDepth limit hl)
  case acc => rw [(exec_keeps he).acc, hcfg]; exact tick_acc_le s

/-- Storing bytes inside memory keeps the invariant. -/
theorem Inv.pokeBytes {s : State} {a : Nat} {bs : List Byte} (h : Inv s) (hb : a + bs.length ≤ memSize) :
    Inv (s.pokeBytes a bs) :=
  { h with memory := Memory.wf_writeBytes _ h.memory hb }

/-- The state before a program is loaded meets the invariant, under every configuration (70_reset_and_hazards.md R250). -/
theorem inv_initial (cfg : Config) : Inv (State.initial cfg) where
  memory := rfl
  index := Nat.zero_le _
  pc := by simp [State.initial]
  stackEntries := nofun
  stackDepth := fun _ _ => Nat.zero_le _
  acc := Nat.zero_le _

/-- Settles O22: reset is the initial state under the default configuration. -/
theorem resetMeetsInvariant : Obligations.ResetMeetsInvariant := inv_initial Config.default

/-- Settles O23, from what one instruction does to each part of the invariant. -/
theorem stepKeepsInvariant : Obligations.StepKeepsInvariant := fun _ _ => step_inv

/-- Construction answers the initial state with the program stored, which fits (70_reset_and_hazards.md R251). -/
theorem construct_ok {cfg : Config} {program : List Byte} {s : State} (h : construct cfg program = .ok s) :
    program.length ≤ progMax ∧ s = (State.initial cfg).pokeBytes progBase program := by
  unfold construct at h
  split at h
  · cases h
  · next hlen => cases h; exact ⟨Nat.le_of_not_gt hlen, rfl⟩

/-- A key press changes the keys alone (45_timers_input.md R206). -/
theorem press_next {key : Nat} {s t : State} (h : press key s = .next t) : t = { s with keys := t.keys } := by
  unfold press at h
  split at h <;> cases h
  rfl

/-- A key release changes the keys and LRK alone (45_timers_input.md R207). -/
theorem release_next {key : Nat} {s t : State} (h : release key s = .next t) :
    t = { s with keys := t.keys, lrk := t.lrk } := by
  unfold release at h
  split at h <;> cases h
  rfl

/-- What holds of every state of a core constructed with `cfg` while it runs. -/
structure RunInv (cfg : Config) (s : State) : Prop where
  inv : Inv s
  status : s.status = .running
  cfg_eq : s.cfg = cfg

/-- Neither the keys nor LRK bear on `RunInv`. -/
theorem RunInv.setKeys {cfg : Config} {s : State} (h : RunInv cfg s) (keys : Vector Bool 16) (lrk : Option (Fin 16)) :
    RunInv cfg { s with keys := keys, lrk := lrk } :=
  ⟨{ h.inv with }, h.status, h.cfg_eq⟩

/-- Construction gives `RunInv`, and every other host operation keeps it (60_exceptions.md R236). -/
theorem Reachable.runInv {cfg : Config} {s : State} (h : Reachable cfg s) : RunInv cfg s := by
  induction h with
  | construct h =>
    obtain ⟨hlen, rfl⟩ := construct_ok h
    exact ⟨(inv_initial cfg).pokeBytes (Nat.add_le_add_left hlen _), rfl, rfl⟩
  | press _ h ih => rw [press_next h]; exact ih.setKeys _ _
  | release _ h ih => rw [release_next h]; exact ih.setKeys _ _
  | step _ h ih => exact ⟨step_inv ih.inv h, step_status h, (step_acc_cfg h).2.trans ih.cfg_eq⟩

/-- Settles O24, by induction on the host operations that reached the state. -/
theorem reachableStatesMeetInvariant : Obligations.ReachableStatesMeetInvariant := fun _ _ h =>
  have ⟨hinv, hstatus, hcfg⟩ := h.runInv
  ⟨hinv, hstatus, hcfg⟩

/-! ## ACC over a run (10_state.md R32) -/

/-- A run of k + 1 steps that answers a next state is one step and a run of k. -/
theorem run_succ_next {k : Nat} {s t : State} (h : Sys2Proof.core.run (k + 1) s = .next t) :
    ∃ u, step s = .next u ∧ Sys2Proof.core.run k u = .next t := by
  cases hs : step s with
  | next u =>
    have hrun : Sys2Proof.core.run (k + 1) s = Sys2Proof.core.run k u := by
      simp only [Host.Core.run, Sys2Proof.core, hs]
    exact ⟨u, rfl, hrun ▸ h⟩
  | fault r => simp [Host.Core.run, Sys2Proof.core, hs] at h
  | refused r => simp [Host.Core.run, Sys2Proof.core, hs] at h

/-- ACC below the period counts one tick modulo the period (40_execution_cycle.md R101, R102). -/
theorem tick_acc_mod {s : State} (h : s.acc < s.cfg.speed / 60 + 1) :
    (tick s).acc = (s.acc + 1) % (s.cfg.speed / 60 + 1) := by
  rw [tick_acc]
  split
  · rw [show s.acc + 1 = s.cfg.speed / 60 + 1 by omega, Nat.mod_self]
  · rw [Nat.mod_eq_of_lt (by omega)]

/-- Settles O12, by induction on the number of steps: each step's ACC is its tick's. -/
theorem runsCountStepsModuloPeriod : Obligations.RunsCountStepsModuloPeriod := by
  intro k
  induction k with
  | zero => intro s t h hacc; cases h; exact (Nat.mod_eq_of_lt hacc).symm
  | succ k ih =>
    intro s t h hacc
    obtain ⟨u, hu, hrun⟩ := run_succ_next h
    obtain ⟨huacc, hucfg⟩ := step_acc_cfg hu
    rw [tick_acc_mod hacc] at huacc
    have htail := ih u t hrun (by rw [hucfg, huacc]; exact Nat.mod_lt _ (Nat.succ_pos _))
    rw [htail, hucfg, huacc, Nat.mod_add_mod, Nat.add_assoc, Nat.add_comm 1 k]

/-! ## Who writes what (10_state.md R25, R28 to R35)

The writers of each piece of state, read back from the table `effectsOf`. -/

theorem effectsOf_stack {i : Instr} {s : State} :
    (effectsOf i s).stack = true ↔ i = .ret ∨ ∃ nnn, i = .call nnn := by
  cases i <;> simp [effectsOf]

theorem effectsOf_index {i : Instr} {s : State} :
    (effectsOf i s).index = true ↔ (∃ nnn, i = .ldI nnn) ∨ (∃ x, i = .addI x) ∨ (∃ x, i = .ldF x) ∨
      (s.cfg.loadstoreIndexIncrement = true ∧ ∃ x, i = .ldMemVx x ∨ i = .ldVxMem x) := by
  cases i <;> simp [effectsOf]

theorem effectsOf_delay {i : Instr} {s : State} : (effectsOf i s).delay = true ↔ ∃ x, i = .ldDtVx x := by
  cases i <;> simp [effectsOf]

theorem effectsOf_sound {i : Instr} {s : State} : (effectsOf i s).sound = true ↔ ∃ x, i = .ldStVx x := by
  cases i <;> simp [effectsOf]

theorem effectsOf_display {i : Instr} {s : State} :
    (effectsOf i s).display = true ↔ i = .cls ∨ ∃ x y n, i = .drw x y n := by
  cases i <;> simp [effectsOf]

theorem effectsOf_stored {i : Instr} {s : State} :
    (effectsOf i s).stored.2 ≠ 0 ↔ ∃ x, i = .ldB x ∨ i = .ldMemVx x := by
  cases i <;> simp [effectsOf, blockLength]

/-- Settles O25: an instruction changes only what `effectsOf` names, and that names each piece's writers. -/
theorem onlyNamedInstructionsWrite : Obligations.OnlyNamedInstructionsWrite := by
  intro i s t h
  have hc := exec_changes h
  have hk := exec_keeps h
  refine ⟨?stack, ?index, ?delay, ?sound, ?display, ?memory, hk.acc, hk.keys, hk.lrk, hk.status, hk.cfg⟩
  case stack => exact fun hne => effectsOf_stack.1 (Bool.eq_true_of_not_eq_false (mt hc.stack hne))
  case index => exact fun hne => effectsOf_index.1 (Bool.eq_true_of_not_eq_false (mt hc.index hne))
  case delay => exact fun hne => effectsOf_delay.1 (Bool.eq_true_of_not_eq_false (mt hc.delay hne))
  case sound => exact fun hne => effectsOf_sound.1 (Bool.eq_true_of_not_eq_false (mt hc.sound hne))
  case display => exact fun hne => effectsOf_display.1 (Bool.eq_true_of_not_eq_false (mt hc.display hne))
  case memory => exact fun hne => effectsOf_stored.1 (mt hc.mem hne)

/-- VF is in the block V0..Vx only for x = F (10_state.md R25). -/
theorem flagReg_le {x : Reg} : flagReg ≤ x ↔ x = 0xF := by
  rw [BitVec.le_def, ← BitVec.toNat_inj]
  have := x.isLt
  have hF : flagReg.toNat = 15 := rfl
  have hF' : (0xF : Reg).toNat = 15 := rfl
  omega

theorem flagWriter_of_mem_effectsOf {i : Instr} {s : State} (h : flagReg ∈ (effectsOf i s).regs) :
    (∃ x y, i = .addReg x y ∨ i = .subReg x y ∨ i = .shrReg x y ∨ i = .subnReg x y ∨ i = .shlReg x y) ∨
    (∃ x y n, i = .drw x y n) ∨ (∃ x, i = .addI x) ∨
    (∃ nn, i = .ldImm 0xF nn ∨ i = .addImm 0xF nn ∨ i = .rnd 0xF nn) ∨
    (∃ y, i = .ldReg 0xF y ∨ i = .orReg 0xF y ∨ i = .andReg 0xF y ∨ i = .xorReg 0xF y) ∨
    i = .ldVxDt 0xF ∨ i = .ldVxK 0xF ∨ i = .ldVxMem 0xF := by
  cases i <;> simp_all [effectsOf, flagReg_le]

/-- Settles O26: a changed VF is among the registers `effectsOf` names. -/
theorem onlyNamedInstructionsWriteFlag : Obligations.OnlyNamedInstructionsWriteFlag := by
  intro i s t h hne
  apply flagWriter_of_mem_effectsOf (s := s)
  by_contra hnot
  exact hne ((exec_changes h).regs flagReg hnot)

end Sys2Proof.Machine

/-! ## Fetch sees every store (20_memory.md R53, R60, R63) -/

namespace Sys2Proof

/-- The decoder reads every instruction back from its own word: outside the two fixed words, by the fields of each format
(30_encoding.md R72, R93). -/
theorem decode_encode (i : Instr) : decode (encode i) = some i := by
  cases i
  case cls => rfl
  case ret => rfl
  all_goals simp [encode, decode, decodeAlu, decodeKey, decodeMisc]

/-- The table's 16 bits of a word are the word. -/
@[simp] theorem tableWord_toNat (w : Word) : tableWord 16 w.toNat = w := by
  rw [tableWord, Nat.mod_eq_of_lt w.isLt, BitVec.ofNat_toNat, BitVec.setWidth_eq]

end Sys2Proof

namespace Sys2Proof.Machine

/-- Byte `k` of a store from `a` reads back at `a + k` (20_memory.md R53, R60). -/
theorem State.peek_pokeBytes_of_getElem? {s : State} {a k : Nat} {bs : List Byte} {b : Byte}
    (hm : s.mem.wf s.cfg.font = true) (hfit : a + bs.length ≤ memSize) (hb : bs[k]? = some b) :
    (s.pokeBytes a bs).peek (a + k) = b := by
  rw [State.peek_pokeBytes hm hfit, if_pos (Nat.le_add_right a k), Nat.add_sub_cancel_left,
    List.getD_eq_getElem?_getD, hb, Option.getD_some]

/-- With PC on byte `k` of a store, fetch reads bytes `k` and `k + 1` of it, the first one high (20_memory.md R53, R63). -/
theorem fetch_pokeBytes {s : State} {a k : Nat} {bs : List Byte} {first second : Byte}
    (hm : s.mem.wf s.cfg.font = true) (hfit : a + bs.length ≤ memSize) (hpc : s.pc.toNat = a + k)
    (hfirst : bs[k]? = some first) (hsecond : bs[k + 1]? = some second) :
    fetch (s.pokeBytes a bs) = some (first ++ second) := by
  obtain ⟨hk, -⟩ := List.getElem?_eq_some_iff.1 hsecond
  have hrange : (s.pokeBytes a bs).pc.toNat + 1 ≤ 0xFFF := by
    simp only [memSize] at hfit; rw [State.pokeBytes_pc]; omega
  rw [fetch_of_le hrange, State.pokeBytes_pc, hpc, Nat.add_assoc, State.peek_pokeBytes_of_getElem? hm hfit hfirst,
    State.peek_pokeBytes_of_getElem? hm hfit hsecond]

/-- Where a word fits at PC, placing it stores its two bytes there. -/
theorem placeWord_of_le {s : State} (h : s.pc.toNat + 1 ≤ 0xFFF) (w : Word) :
    placeWord s w = s.pokeBytes s.pc.toNat (bytesOfWord w) :=
  if_pos (Nat.lt_succ_of_le h)

/-- A placed word is the word fetched next (20_memory.md R63). -/
theorem fetch_placeWord {s : State} (hm : s.mem.wf s.cfg.font = true) (h : s.pc.toNat + 1 ≤ 0xFFF) (w : Word) :
    fetch (placeWord s w) = some w := by
  have hfit : s.pc.toNat + (bytesOfWord w).length ≤ memSize := Nat.succ_le_succ h
  rw [placeWord_of_le h, fetch_pokeBytes (k := 0) hm hfit rfl rfl rfl, word_of_bytes]

/-- Placing a word leaves the fault status. -/
@[simp] theorem placeWord_status (s : State) (w : Word) : (placeWord s w).status = s.status := by
  unfold placeWord; split <;> rfl

/-- Settles O9: moving PC onto byte `k` leaves the store, and `a + k` fits in PC. -/
theorem fetchSeesStoredBytes : Obligations.FetchSeesStoredBytes := by
  intro s a k bs first second hm hfit hfirst hsecond
  obtain ⟨hk, -⟩ := List.getElem?_eq_some_iff.1 hfirst
  have hpc : (s.setPc (BitVec.ofNat 16 (a + k))).pc.toNat = a + k := by
    rw [State.setPc_pc, BitVec.toNat_ofNat]; omega
  exact fetch_pokeBytes (s := s.setPc _) hm hfit hpc hfirst hsecond

/-- Settles O8: fetch reads the placed word, and its decoding is the instruction. -/
theorem placedWordIsExecuted : Obligations.PlacedWordIsExecuted := by
  intro s i hrun hm hpc
  have hfetch : fetch (s.withFetchWord 16 (encode i).toNat) = some (encode i) := by
    rw [State.withFetchWord, tableWord_toNat, fetch_placeWord hm hpc]
  exact step_of_decode ((placeWord_status s _).trans hrun) hfetch (decode_encode i)

end Sys2Proof.Machine

/-! ## A decoded word is its instruction's word (30_encoding.md R93, R94) -/

namespace Sys2Proof

/-- Op 0 decodes two whole words only (30_encoding.md R95). -/
theorem encode_of_decodeFixed {w : Word} {i : Instr} (h : decodeFixed w = some i) : encode i = w := by
  unfold decodeFixed at h
  split at h
  · next hw => cases h; exact hw.symm
  · split at h
    · next hw => cases h; exact hw.symm
    · cases h

/-- An op 8 instruction's word has its sub-opcode in the `n` field (30_encoding.md R72). -/
theorem encode_of_decodeAlu {x y : Reg} {n : Nibble} {i : Instr} (h : decodeAlu x y n = some i) :
    encode i = 0x8#4 ++ x ++ y ++ n := by
  unfold decodeAlu at h
  split at h <;> cases h <;> rfl

/-- An op E instruction's word has its sub-opcode in the `nn` field (30_encoding.md R72). -/
theorem encode_of_decodeKey {x : Reg} {nn : Byte} {i : Instr} (h : decodeKey x nn = some i) :
    encode i = 0xE#4 ++ x ++ nn := by
  unfold decodeKey at h
  split at h <;> cases h <;> rfl

/-- An op F instruction's word has its sub-opcode in the `nn` field (30_encoding.md R72). -/
theorem encode_of_decodeMisc {x : Reg} {nn : Byte} {i : Instr} (h : decodeMisc x nn = some i) :
    encode i = 0xF#4 ++ x ++ nn := by
  unfold decodeMisc at h
  split at h <;> cases h <;> rfl

/-- The op picks the format, and the instruction's word puts that format's fields of `w` together again
(30_encoding.md R71, R72). -/
theorem encode_of_decode {w : Word} {i : Instr} (h : decode w = some i) : encode i = w := by
  unfold decode at h
  split at h
  case h_1 => exact encode_of_decodeFixed h
  case h_2 hop | h_3 hop | h_11 hop | h_12 hop => cases h; rw [encode, ← hop, word_of_fields_addr]
  case h_4 hop | h_5 hop | h_7 hop | h_8 hop | h_13 hop => cases h; rw [encode, ← hop, word_of_fields_xnn]
  case h_6 hop | h_10 hop =>
    split at h
    · next hn => cases h; rw [encode, ← hop, ← hn, word_of_fields_xyn]
    · cases h
  case h_9 hop => rw [encode_of_decodeAlu h, ← hop, word_of_fields_xyn]
  case h_14 hop => cases h; rw [encode, ← hop, word_of_fields_xyn]
  case h_15 hop => rw [encode_of_decodeKey h, ← hop, word_of_fields_xnn]
  case h_16 hop => rw [encode_of_decodeMisc h, ← hop, word_of_fields_xnn]
  case h_17 => cases h

/-- Settles O1: the decoder reads the fields of each format back. -/
theorem decodeOfEncode : Obligations.DecodeOfEncode := decode_encode

/-- Settles O2: at each op, the decoder reads every field that the instruction's word is made of. -/
theorem encodeOfDecode : Obligations.EncodeOfDecode := fun _ _ => encode_of_decode

/-- Settles O6: the thirteen words, decoded. -/
theorem sampleWordsDecode : Obligations.SampleWordsDecode := by
  unfold Obligations.SampleWordsDecode
  decide

end Sys2Proof

/-! ## The unimplemented words (30_encoding.md R94) -/

namespace Sys2Proof

/-- Op 0 outside `00E0` and `00EE` is unimplemented (30_encoding.md R95). -/
theorem decodeFixed_eq_none_iff {w : Word} : decodeFixed w = none ↔ w ≠ 0x00E0#16 ∧ w ≠ 0x00EE#16 := by
  unfold decodeFixed
  split_ifs <;> simp [*]

/-- The sub-opcodes op 8 leaves out. -/
theorem decodeAlu_eq_none_iff {x y : Reg} {n : Nibble} :
    decodeAlu x y n = none ↔ n ∈ ([0x8, 0x9, 0xA, 0xB, 0xC, 0xD, 0xF] : List Nibble) := by
  unfold decodeAlu
  split
  case h_10 =>
    simp only [true_iff]
    decide +revert
  all_goals simp

/-- Op E has two sub-opcodes. -/
theorem decodeKey_eq_none_iff {x : Reg} {nn : Byte} : decodeKey x nn = none ↔ nn ∉ ([0x9E, 0xA1] : List Byte) := by
  unfold decodeKey
  split <;> simp_all

/-- Op F has nine sub-opcodes. -/
theorem decodeMisc_eq_none_iff {x : Reg} {nn : Byte} :
    decodeMisc x nn = none ↔ nn ∉ ([0x07, 0x0A, 0x15, 0x18, 0x1E, 0x29, 0x33, 0x55, 0x65] : List Byte) := by
  unfold decodeMisc
  split <;> simp_all

/-- The op field has sixteen values, so the decoder's last arm is never reached. -/
theorem mem_opValues (o : BitVec 4) :
    o ∈ ([0x0, 0x1, 0x2, 0x3, 0x4, 0x5, 0x6, 0x7, 0x8, 0x9, 0xA, 0xB, 0xC, 0xD, 0xE, 0xF] : List (BitVec 4)) := by
  decide +revert

/-- Settles O5: at each op, the words its part of the decoder leaves out. -/
theorem unimplementedWordsListed : Obligations.UnimplementedWordsListed := by
  intro w
  unfold decode
  split
  case h_1 hop => simp [hop, decodeFixed_eq_none_iff]
  case h_9 hop => simp [hop, decodeAlu_eq_none_iff]
  case h_15 hop => simp [hop, decodeKey_eq_none_iff]
  case h_16 hop => simp [hop, decodeMisc_eq_none_iff]
  case h_17 => exact absurd (mem_opValues (fieldOp w)) (by simp_all)
  all_goals simp [*]

end Sys2Proof

/-! ## The opcode map against the decoder (30_encoding.md R93, R94) -/

namespace Sys2Proof.Laws.TableRow

/-- Every instruction's word belongs to the row of its mnemonic. -/
theorem statement : ∀ i : Instr, Statement i
  | .cls => cls
  | .ret => ret
  | .jp nnn => jp nnn
  | .call nnn => call nnn
  | .seImm x nn => seImm x nn
  | .sneImm x nn => sneImm x nn
  | .seReg x y => seReg x y
  | .ldImm x nn => ldImm x nn
  | .addImm x nn => addImm x nn
  | .ldReg x y => ldReg x y
  | .orReg x y => orReg x y
  | .andReg x y => andReg x y
  | .xorReg x y => xorReg x y
  | .addReg x y => addReg x y
  | .subReg x y => subReg x y
  | .shrReg x y => shrReg x y
  | .subnReg x y => subnReg x y
  | .shlReg x y => shlReg x y
  | .sneReg x y => sneReg x y
  | .ldI nnn => ldI nnn
  | .jpV0 nnn => jpV0 nnn
  | .rnd x nn => rnd x nn
  | .drw x y n => drw x y n
  | .skp x => skp x
  | .sknp x => sknp x
  | .ldVxDt x => ldVxDt x
  | .ldVxK x => ldVxK x
  | .ldDtVx x => ldDtVx x
  | .ldStVx x => ldStVx x
  | .addI x => addI x
  | .ldF x => ldF x
  | .ldB x => ldB x
  | .ldMemVx x => ldMemVx x
  | .ldVxMem x => ldVxMem x

end Sys2Proof.Laws.TableRow

namespace Sys2Proof

/-- A row holds of a word whose masked bits are its pattern (30_encoding.md R93). -/
theorem OpcodeRow.holds_iff {r : OpcodeRow} {w : Word} : r.holds w = true ↔ w &&& r.mask = r.pattern := beq_iff_eq

/-- Two rows that hold of one word agree on the bits both of them check. -/
theorem OpcodeRow.pattern_and_mask_eq {r q : OpcodeRow} {w : Word} (hr : r.holds w = true) (hq : q.holds w = true) :
    r.pattern &&& q.mask = q.pattern &&& r.mask := by
  rw [← holds_iff.1 hr, ← holds_iff.1 hq, BitVec.and_assoc, BitVec.and_assoc, BitVec.and_comm r.mask]

/-- Any two rows of the map differ on some bit both of them check. -/
theorem opcodeTable_patterns_differ :
    opcodeTable.Pairwise fun r q => r.pattern &&& q.mask ≠ q.pattern &&& r.mask := by decide

/-- Settles O4: a word of two rows would have to agree with both on a bit where they differ. -/
theorem opcodeRowsDisjoint : Obligations.OpcodeRowsDisjoint :=
  ⟨rfl, opcodeTable_patterns_differ.imp fun hne _ ⟨hr, hq⟩ => hne (OpcodeRow.pattern_and_mask_eq hr hq)⟩

/-- The row that holds of a word is the one a search of the map finds: no row before it holds too. -/
theorem find?_opcodeTable {r : OpcodeRow} {w : Word} (hr : r ∈ opcodeTable) (hrw : r.holds w = true) :
    (opcodeTable.find? fun r => r.holds w) = some r := by
  obtain ⟨before, after, htable⟩ := List.append_of_mem hr
  have hdisjoint := opcodeRowsDisjoint.2
  rw [htable, List.pairwise_append] at hdisjoint
  obtain ⟨-, -, hbefore⟩ := hdisjoint
  refine List.find?_eq_some_iff_append.2 ⟨hrw, before, after, htable, fun q hq => ?_⟩
  simpa using fun hqw => hbefore q hq r List.mem_cons_self w ⟨hqw, hrw⟩

/-- A row that holds of a word and checks all of its bits from `start` on gives those bits. -/
theorem OpcodeRow.extract_of_holds {r : OpcodeRow} {w : Word} {start len : Nat} (h : r.holds w = true)
    (hmask : r.mask.extractLsb' start len = BitVec.allOnes len) :
    w.extractLsb' start len = r.pattern.extractLsb' start len := by
  rw [← holds_iff.1 h, BitVec.extractLsb'_and, hmask, BitVec.and_allOnes]

/-- Every row checks the op, and each op's rows the further field that R94 names for the op. -/
theorem opcodeTable_masks : ∀ r ∈ opcodeTable,
    fieldOp r.mask = BitVec.allOnes 4 ∧
    (fieldOp r.pattern = 0x0 → r.mask = BitVec.allOnes 16) ∧
    (fieldOp r.pattern ∈ ([0x5, 0x8, 0x9] : List (BitVec 4)) → fieldN r.mask = BitVec.allOnes 4) ∧
    (fieldOp r.pattern ∈ ([0xE, 0xF] : List (BitVec 4)) → fieldNN r.mask = BitVec.allOnes 8) := by decide

/-- Every row's pattern is itself a word of the map. -/
theorem opcodeTable_patterns_decode : ∀ r ∈ opcodeTable, decode r.pattern ≠ none := by decide

/-- No row of the map holds of an unimplemented word: the row's pattern would share the field by which R94 lists the
word, and be unimplemented too. -/
theorem not_holds_of_decode_eq_none {r : OpcodeRow} {w : Word} (hr : r ∈ opcodeTable) (hw : decode w = none) :
    ¬ r.holds w = true := by
  intro h
  obtain ⟨hmaskOp, hmask0, hmaskN, hmaskNN⟩ := opcodeTable_masks r hr
  have hop : fieldOp w = fieldOp r.pattern := OpcodeRow.extract_of_holds h hmaskOp
  have hn (hc) : fieldN w = fieldN r.pattern := OpcodeRow.extract_of_holds h (hmaskN hc)
  have hnn (hc) : fieldNN w = fieldNN r.pattern := OpcodeRow.extract_of_holds h (hmaskNN hc)
  refine opcodeTable_patterns_decode r hr ((unimplementedWordsListed r.pattern).2 ?_)
  rw [← hop] at hmask0 hn hnn ⊢
  refine ((unimplementedWordsListed w).1 hw).imp ?fixed (Or.imp ?zeroN (Or.imp ?alu (Or.imp ?key ?misc)))
  case fixed =>
    rintro ⟨h0, hne⟩
    have hword : w = r.pattern := by rw [← OpcodeRow.holds_iff.1 h, hmask0 h0, BitVec.and_allOnes]
    exact ⟨h0, hword ▸ hne⟩
  case zeroN => exact fun ⟨h59, hfield⟩ => ⟨h59, hn (by rcases h59 with hc | hc <;> simp [hc]) ▸ hfield⟩
  case alu => exact fun ⟨h8, hfield⟩ => ⟨h8, hn (by simp [h8]) ▸ hfield⟩
  case key => exact fun ⟨hE, hfield⟩ => ⟨hE, hnn (by simp [hE]) ▸ hfield⟩
  case misc => exact fun ⟨hF, hfield⟩ => ⟨hF, hnn (by simp [hF]) ▸ hfield⟩

/-- Settles O3: a word that decodes is its instruction's word, which belongs to the row of the mnemonic, and the map has
no other row for it; of an unimplemented word no row holds. -/
theorem decodeFollowsOpcodeMap : Obligations.DecodeFollowsOpcodeMap := by
  intro w
  cases hd : decode w with
  | none =>
    have hnone : ∀ r ∈ opcodeTable, ¬ r.holds w = true := fun r hr => not_holds_of_decode_eq_none hr hd
    exact ⟨by rw [List.find?_eq_none.2 hnone]; rfl, by simpa [wordWellFormed] using hnone⟩
  | some i =>
    obtain ⟨r, hr, hmnemonic, hrow⟩ := Laws.TableRow.statement i
    rw [encode_of_decode hd] at hrow
    exact ⟨by rw [find?_opcodeTable hr hrow]; simp [hmnemonic], by simpa [wordWellFormed] using ⟨r, hr, hrow⟩⟩

end Sys2Proof

/-! ## The execution cycle (40_execution_cycle.md) -/

namespace Sys2Proof.Machine

/-- A step that answers a next state, of a core whose word at PC decodes, ran that word's instruction and then cleared LRK
(40_execution_cycle.md R100). -/
theorem step_next_of_decode {s t : State} {i : Instr}
    (hd : decode (s.peek s.pc.toNat ++ s.peek (s.pc.toNat + 1)) = some i) (h : step s = .next t) :
    ∃ u, exec i (enterExecute (tick s)) = .next u ∧ t = cleanup u := by
  obtain ⟨-, w, j, u, hf, hj, he, rfl⟩ := step_next_cases h
  obtain ⟨-, rfl⟩ := fetch_eq_some.1 hf
  obtain rfl : i = j := Option.some.inj (hd.symm.trans hj)
  exact ⟨u, he, rfl⟩

/-- The state an instruction executes in is the ticked one with PC advanced and `dirty` false (40_execution_cycle.md R103). -/
theorem enterExecute_tick (s : State) : enterExecute (tick s) = { tick s with pc := s.pc + 2, dirty := false } := by
  rw [enterExecute, tick_pc]

/-- Settles O7: the word at PC is fetched, and the three answers of execute pass through the end of the step. -/
theorem stepRunsDecodedInstruction : Obligations.StepRunsDecodedInstruction := by
  intro s i hrun hpc hd
  rw [step_of_decode hrun (fetch_of_le hpc) hd, enterExecute_tick]
  cases exec i { tick s with pc := s.pc + 2, dirty := false } <;> rfl

/-- Settles O17: the status is looked at before anything else. -/
theorem faultedCoreHasNoStep : Obligations.FaultedCoreHasNoStep := by
  intro s record h
  simp only [step, h]

/-- Settles O19: every step that answers a next state ends with the cleanup. -/
theorem lastReleasedKeyClearedByEveryStep : Obligations.LastReleasedKeyClearedByEveryStep := by
  intro s t h
  obtain ⟨-, w, i, u, -, -, -, rfl⟩ := step_next_cases h
  exact State.cleanup_lrk u

/-! ## The dirty result (40_execution_cycle.md R107) -/

/-- An instruction executed with `dirty` false leaves it true exactly if it draws, or clears under CLEAR_SETS_DIRTY. -/
theorem exec_dirty_iff {i : Instr} {s t : State} (h : exec i s = .next t) (hs : s.dirty = false) :
    t.dirty = true ↔ (∃ x y n, i = .drw x y n) ∨ (i = .cls ∧ s.cfg.clearSetsDirty = true) := by
  cases i
  case cls => cases h; simp
  case drw x y n => obtain ⟨-, rfl⟩ := checkBounds_next h; simp
  all_goals rw [(exec_changes h).dirty rfl, hs]; simp

/-- Settles O20: execute begins with `dirty` false, and the cleanup leaves it. -/
theorem dirtyExactlyForDrawSprite : Obligations.DirtyExactlyForDrawSprite := by
  intro s t i hd h
  obtain ⟨u, he, rfl⟩ := step_next_of_decode hd h
  simpa using exec_dirty_iff he (State.enterExecute_dirty _)

/-! ## The timer tick (40_execution_cycle.md R101, R102) -/

/-- Both readings of `ACC > speed/60`, the exact quotient's and the rounded one's, agree (40_execution_cycle.md R102). -/
theorem sixty_mul_gt_iff (acc speed : Nat) : 60 * acc > speed ↔ acc > speed / 60 := by omega

/-- A timer counts down to 0, as a byte (40_execution_cycle.md R101). -/
theorem countDown_eq_ofNat (b : Byte) : countDown b = BitVec.ofNat 8 (b.toNat - 1) := by
  rw [← toNat_countDown, BitVec.ofNat_toNat, BitVec.setWidth_eq]

/-- Past the period the tick starts ACC again and counts both timers down (40_execution_cycle.md R101). -/
theorem tick_of_gt {s : State} (h : s.acc + 1 > s.cfg.speed / 60) :
    tick s = { s with acc := 0, dt := countDown s.dt, st := countDown s.st } :=
  if_pos h

/-- Within the period the tick only counts (40_execution_cycle.md R101). -/
theorem tick_of_not_gt {s : State} (h : ¬ s.acc + 1 > s.cfg.speed / 60) : tick s = { s with acc := s.acc + 1 } :=
  if_neg h

/-- Settles O10: the tick by its two cases, and the rest from what an instruction changes between tick and cleanup. -/
theorem timerTickCountsAndDecrements : Obligations.TimerTickCountsAndDecrements := by
  intro s
  rw [sixty_mul_gt_iff, ← countDown_eq_ofNat, ← countDown_eq_ofNat]
  refine ⟨tick_of_gt, tick_of_not_gt, fun t i h hd => ?_⟩
  obtain ⟨u, he, rfl⟩ := step_next_of_decode hd h
  have hc := exec_changes he
  refine ⟨(exec_keeps he).acc, fun hi => ?delay, fun hi => ?sound, ?read⟩
  case delay => exact hc.delay (Bool.eq_false_iff.2 fun hw => (effectsOf_delay.1 hw).elim hi)
  case sound => exact hc.sound (Bool.eq_false_iff.2 fun hw => (effectsOf_sound.1 hw).elim hi)
  case read => rintro x rfl; cases he; exact State.reg_setReg_self _ x _

/-- DT after a tick (40_execution_cycle.md R101). -/
theorem tick_dt (s : State) : (tick s).dt = if s.acc + 1 > s.cfg.speed / 60 then countDown s.dt else s.dt :=
  apply_ite State.dt _ _ _

/-- ST after a tick (40_execution_cycle.md R101). -/
theorem tick_st (s : State) : (tick s).st = if s.acc + 1 > s.cfg.speed / 60 then countDown s.st else s.st :=
  apply_ite State.st _ _ _

/-- No number of ticks changes the configuration. -/
@[simp] theorem iterate_tick_cfg (s : State) (k : Nat) : (tick^[k] s).cfg = s.cfg := by
  induction k with
  | zero => rfl
  | succ k ih => rw [Function.iterate_succ_apply', tick_cfg, ih]

/-- From 0, ACC counts ticks modulo the period (40_execution_cycle.md R102). -/
theorem iterate_tick_acc {s : State} (h : s.acc = 0) (k : Nat) : (tick^[k] s).acc = k % (s.cfg.speed / 60 + 1) := by
  induction k with
  | zero => rw [Nat.zero_mod]; exact h
  | succ k ih =>
    have hlt : (tick^[k] s).acc < (tick^[k] s).cfg.speed / 60 + 1 := by
      rw [ih, iterate_tick_cfg]; exact Nat.mod_lt k (Nat.succ_pos _)
    rw [Function.iterate_succ_apply', tick_acc_mod hlt, ih, iterate_tick_cfg, Nat.mod_add_mod]

/-- One more tick completes a period of `q + 1` exactly if ACC would pass `q`. -/
theorem succ_div_period (k q : Nat) :
    (k + 1) / (q + 1) = k / (q + 1) + if k % (q + 1) + 1 > q then 1 else 0 := by
  have hq : 0 < q + 1 := Nat.succ_pos q
  have hlt := Nat.mod_lt k hq
  have hk := Nat.mod_add_div k (q + 1)
  split
  · refine ((Nat.div_mod_unique (c := 0) hq).2 ⟨?_, hq⟩).1
    rw [Nat.mul_add_one]; omega
  · refine ((Nat.div_mod_unique (c := k % (q + 1) + 1) hq).2 ⟨?_, by omega⟩).1
    simp only [Nat.add_zero]; omega

/-- From ACC 0, a timer that each tick past the period counts down, as the tick does DT and ST, goes down once a period
(40_execution_cycle.md R102). -/
theorem toNat_timer_iterate_tick {timer : State → Byte}
    (htick : ∀ s, timer (tick s) = if s.acc + 1 > s.cfg.speed / 60 then countDown (timer s) else timer s)
    {s : State} (h : s.acc = 0) (k : Nat) :
    (timer (tick^[k] s)).toNat = (timer s).toNat - k / (s.cfg.speed / 60 + 1) := by
  induction k with
  | zero => rw [Nat.zero_div, Nat.sub_zero]; rfl
  | succ k ih =>
    rw [Function.iterate_succ_apply', htick, iterate_tick_acc h, iterate_tick_cfg, succ_div_period]
    split
    · rw [toNat_countDown, ih, Nat.sub_sub]
    · exact ih

/-- Settles O11, by induction on the number of ticks for ACC, and for DT and ST alike. -/
theorem timersDecrementOncePerPeriod : Obligations.TimersDecrementOncePerPeriod :=
  ⟨sixty_mul_gt_iff, fun _ k h =>
    ⟨iterate_tick_acc h k, toNat_timer_iterate_tick tick_dt h k, toNat_timer_iterate_tick tick_st h k⟩⟩

end Sys2Proof.Machine

/-! ## Control flow (41_control_flow.md)

What a return, a call and a skip answer, each said once. -/

namespace Sys2Proof.Machine

/-- A return with an address on the stack pops it into PC (41_control_flow.md R121). -/
theorem execRet_of_stack_concat {s : State} {l : List Word} {a : Word} (h : s.stack = l ++ [a]) :
    execRet s = .next ((s.setStack l).setPc a) := by
  have htop : s.top = some a := by rw [State.top, h, List.getLast?_concat]
  have hdrop : s.dropTop = s.setStack l := by rw [State.dropTop, h, List.dropLast_concat]
  simp only [execRet, htop, hdrop]

/-- A return with nothing on the stack raises StackUnderflow (41_control_flow.md R121, 60_exceptions.md R221). -/
theorem execRet_of_stack_nil {s : State} (h : s.stack = []) :
    execRet s = .fault (.stackUnderflow 0x00EE (faultPc s)) := by
  have htop : s.top = none := by rw [State.top, h, List.getLast?_nil]
  simp only [execRet, htop, raise, reportPc_eq_faultPc]
  rfl

/-- A stack is full exactly if it is bounded and holds as many addresses as its bound (41_control_flow.md R123). -/
theorem State.stackFull_iff {s : State} :
    s.stackFull = true ↔ ∃ limit, s.cfg.stackLimit = some limit ∧ limit ≤ s.stack.length := by
  unfold State.stackFull
  split <;> simp_all

/-- A call with room on the stack pushes PC and jumps (41_control_flow.md R123). -/
theorem execCall_of_not_stackFull {s : State} (nnn : Addr) (h : s.stackFull = false) :
    execCall nnn s = .next ((s.push s.pc).setPc (addrOperand nnn)) :=
  if_neg (Bool.eq_false_iff.1 h)

/-- A call with a full stack raises StackOverflow (41_control_flow.md R123, 60_exceptions.md R222). -/
theorem execCall_of_stackFull {s : State} (nnn : Addr) (h : s.stackFull = true) :
    execCall nnn s = .fault (.stackOverflow (encode (.call nnn)) (faultPc s)) := by
  rw [execCall, if_pos h, raise, reportPc_eq_faultPc]

/-- A conditional skip moves PC by 2 exactly when its condition holds, and changes nothing else (41_control_flow.md R120). -/
theorem exists_skipIf_next {c : Bool} {s : State} {a : Word} (ha : (if c then s.pc + 2 else s.pc) = a) :
    ∃ t, skipIf c s = .next t ∧ t.pc = a ∧ Frame { pc := true } s t := by
  cases c
  · exact ⟨s, rfl, ha, frame_refl s _⟩
  · exact ⟨s.skip, rfl, ha, frame_setPc s _⟩

/-- Settles O31: the stack's last entry decides between the pop and the fault. -/
theorem returnPopsOrFaults : Obligations.ReturnPopsOrFaults :=
  ⟨fun s l a h => ⟨_, execRet_of_stack_concat h, rfl, rfl, frame_setStack_setPc s l a⟩,
    fun _ => execRet_of_stack_nil⟩

/-- Settles O32: whether the stack is full decides between the push and the fault. -/
theorem callPushesOrFaults : Obligations.CallPushesOrFaults := by
  refine fun s nnn => ⟨fun hroom => ?_, fun limit hl hfull => ?_⟩
  · have hnot : s.stackFull = false := Bool.eq_false_iff.2 fun hf =>
      have ⟨limit, hl, hle⟩ := State.stackFull_iff.1 hf
      (hroom limit hl).not_ge hle
    exact ⟨_, execCall_of_not_stackFull nnn hnot, rfl, toNat_addrOperand nnn, frame_setStack_setPc s _ _⟩
  · exact execCall_of_stackFull nnn (State.stackFull_iff.2 ⟨limit, hl, hfull⟩)

/-- Settles O33: the call leaves the old stack with the old PC on top, which is what the return pops. -/
theorem returnUndoesCall : Obligations.ReturnUndoesCall := by
  intro s t u nnn hcall hu
  obtain ⟨-, rfl⟩ := execCall_next hcall
  exact ⟨_, execRet_of_stack_concat hu, rfl, rfl⟩

/-- Settles O34: both jumps are a write of PC, with their target's value. -/
theorem jumpsSetProgramCounter : Obligations.JumpsSetProgramCounter := fun s nnn =>
  ⟨⟨_, rfl, toNat_addrOperand nnn, frame_setPc s _⟩, ⟨_, rfl, toNat_offsetTarget nnn s, frame_setPc s _⟩⟩

/-- Settles O35: the four are conditional skips, and each one's Boolean comparison is its condition. -/
theorem registerSkips : Obligations.RegisterSkips := fun _ _ _ _ =>
  ⟨exists_skipIf_next (by simp), exists_skipIf_next (by simp), exists_skipIf_next (by simp), exists_skipIf_next (by simp)⟩

/-! ## Runs that stay at one instruction -/

/-- A run whose first step answers `u` is the run from `u`. -/
theorem run_succ_of_step {k : Nat} {s u : State} (h : step s = .next u) :
    Sys2Proof.core.run (k + 1) s = Sys2Proof.core.run k u := by
  simp only [Host.Core.run, Sys2Proof.core, h]

/-- Where a property lets every step answer a next state and is kept by it, every run is safe and ends with the property
(40_execution_cycle.md R112). -/
theorem safeRun_of_invariant {P : State → Prop} (hstep : ∀ s, P s → ∃ u, step s = .next u ∧ P u) (k : Nat) {s : State}
    (hs : P s) : SafeRun k s ∧ ∀ t, Sys2Proof.core.run k s = .next t → P t := by
  induction k generalizing s with
  | zero => exact ⟨⟨s, rfl⟩, fun t ht => by cases ht; exact hs⟩
  | succ k ih =>
    obtain ⟨u, hu, hPu⟩ := hstep s hs
    rw [SafeRun, run_succ_of_step hu]
    exact ih hPu

/-- `t` stands where `s` does, with the registers, memory, display, status and configuration of `s`: what a jump to itself
keeps, and enough to fetch the same word again. -/
structure SamePlace (s t : State) : Prop where
  pc : t.pc = s.pc
  v : t.v = s.v
  mem : t.mem = s.mem
  disp : t.disp = s.disp
  status : t.status = s.status
  cfg : t.cfg = s.cfg

theorem SamePlace.refl (s : State) : SamePlace s s := ⟨rfl, rfl, rfl, rfl, rfl, rfl⟩

theorem SamePlace.trans {s t u : State} (h : SamePlace s t) (h' : SamePlace t u) : SamePlace s u :=
  ⟨h'.pc.trans h.pc, h'.v.trans h.v, h'.mem.trans h.mem, h'.disp.trans h.disp, h'.status.trans h.status,
    h'.cfg.trans h.cfg⟩

/-- A state that stands at the same place fetches the same word. -/
theorem SamePlace.fetch_eq {s t : State} (h : SamePlace s t) : fetch t = fetch s := by
  simp only [fetch, h.pc, State.peek_of_mem h.mem h.cfg]

/-- A running core at a jump to PC steps to the same place (41_control_flow.md R122). -/
theorem step_selfJump {s : State} {nnn : Addr} {w : Word} (hrun : s.status = .running) (hpc : s.pc.toNat = nnn.toNat)
    (hf : fetch s = some w) (hd : decode w = some (.jp nnn)) : ∃ t, step s = .next t ∧ SamePlace s t := by
  have htarget : addrOperand nnn = s.pc := BitVec.eq_of_toNat_eq ((toNat_addrOperand nnn).trans hpc.symm)
  refine ⟨_, step_of_decode hrun hf hd, htarget, ?_, ?_, ?_, ?_, ?_⟩ <;> simp

/-- Settles O36: every step from the self-jump's place ends at that place. -/
theorem selfJumpRunsForever : Obligations.SelfJumpRunsForever := by
  intro s nnn k hrun hlt hpc hd
  have hf := fetch_of_le (s := s) (by omega)
  have hstep : ∀ t, SamePlace s t → ∃ u, step t = .next u ∧ SamePlace s u := fun t ht =>
    have ⟨u, hu, hsame⟩ :=
      step_selfJump (ht.status.trans hrun) ((congrArg BitVec.toNat ht.pc).trans hpc) (ht.fetch_eq.trans hf) hd
    ⟨u, hu, ht.trans hsame⟩
  obtain ⟨hsafe, hplace⟩ := safeRun_of_invariant hstep k (SamePlace.refl s)
  exact ⟨hsafe, fun t ht => ⟨(hplace t ht).pc, (hplace t ht).v, (hplace t ht).mem, (hplace t ht).disp⟩⟩

end Sys2Proof.Machine

/-! ## Registers and arithmetic (42_register_alu.md)

A byte operation's result as a number modulo 256, each flag as a number, and the two shapes of a meaning of this family. -/

namespace Sys2Proof.Machine

/-- A byte sum is modulo 256 (42_register_alu.md R140). -/
theorem add_eq_ofNat_mod (a b : Byte) : a + b = BitVec.ofNat 8 ((a.toNat + b.toNat) % 256) :=
  BitVec.eq_of_toNat_eq (by simp)

/-- A byte difference is modulo 256 (42_register_alu.md R140). -/
theorem sub_eq_ofNat_mod (a b : Byte) : a - b = BitVec.ofNat 8 ((a.toNat + 256 - b.toNat) % 256) := by
  have hb := b.isLt
  apply BitVec.eq_of_toNat_eq
  rw [BitVec.toNat_sub, BitVec.toNat_ofNat]
  omega

/-- A right shift by one halves (42_register_alu.md R150). -/
theorem ushiftRight_one_eq_ofNat (b : Byte) : b >>> 1 = BitVec.ofNat 8 (b.toNat / 2) := by
  have hb := b.isLt
  apply BitVec.eq_of_toNat_eq
  rw [BitVec.toNat_ushiftRight, BitVec.toNat_ofNat, Nat.shiftRight_one]
  omega

/-- A left shift by one doubles modulo 256 (42_register_alu.md R152). -/
theorem shiftLeft_one_eq_ofNat_mod (b : Byte) : b <<< 1 = BitVec.ofNat 8 (2 * b.toNat % 256) := by
  apply BitVec.eq_of_toNat_eq
  rw [BitVec.toNat_shiftLeft, BitVec.toNat_ofNat, Nat.shiftLeft_eq]
  omega

/-- The flag of a comparison. -/
theorem flagOf_decide (p : Prop) [Decidable p] : flagOf (decide p) = if p then 1 else 0 := by
  simp only [flagOf, decide_eq_true_eq]

/-- A condition's flag is the condition as a number. -/
theorem flagOf_eq_ofNat_toNat (c : Bool) : flagOf c = BitVec.ofNat 8 c.toNat := by
  cases c <;> rfl

/-- The flag of bit `k` of a byte is that binary digit. -/
theorem flagOf_getLsbD (b : Byte) (k : Nat) : flagOf (b.getLsbD k) = BitVec.ofNat 8 (b.toNat / 2 ^ k % 2) := by
  rw [flagOf_eq_ofNat_toNat, BitVec.getLsbD, Nat.toNat_testBit]

/-- The bit a right shift loses is the remainder of the halving (42_register_alu.md R150). -/
theorem lowBitFlag_eq_ofNat (b : Byte) : lowBitFlag b = BitVec.ofNat 8 (b.toNat % 2) := by
  rw [lowBitFlag, flagOf_getLsbD, Nat.pow_zero, Nat.div_one]

/-- The bit a left shift loses is what the doubling carries past 255 (42_register_alu.md R152). -/
theorem highBitFlag_eq_ofNat (b : Byte) : highBitFlag b = BitVec.ofNat 8 (b.toNat / 128) := by
  have hlt : b.toNat / 128 < 2 := Nat.div_lt_of_lt_mul b.isLt
  rw [highBitFlag, flagOf_getLsbD, show 2 ^ 7 = 128 from rfl, Nat.mod_eq_of_lt hlt]

/-- A meaning that writes one register leaves the value there, and everything else as it was (10_state.md R22). -/
theorem exists_setReg_next (s : State) (x : Reg) (b : Byte) :
    ∃ t, (.next (s.setReg x b) : Answer) = .next t ∧ t.reg x = b ∧ Frame { regs := [x] } s t :=
  ⟨_, rfl, State.reg_setReg_self s x b, frame_setReg s x b⟩

/-- A meaning that writes a result and a flag leaves them as VF_DEST_ORDER says, and everything else as it was
(42_register_alu.md R141). -/
theorem exists_writeResultAndFlag_next (s : State) (x : Reg) {r r' f f' : Byte} (hr : r = r') (hf : f = f') :
    ∃ t, (.next (s.writeResultAndFlag x r f) : Answer) = .next t ∧ ResultAndFlag s t x r' f' ∧
      Frame { regs := [x, flagReg] } s t := by
  subst hr hf
  exact ⟨_, rfl, resultAndFlag_writeResultAndFlag s x r f, frame_writeResultAndFlag s x r f⟩

/-- Settles O39: the result is the byte sum, the flag its carry. -/
theorem addWithCarry : Obligations.AddWithCarry := fun s x _ =>
  exists_writeResultAndFlag_next s x (add_eq_ofNat_mod _ _) (flagOf_decide _)

/-- Settles O40: the two are one subtraction, with the operands exchanged. -/
theorem subtractWithBorrow : Obligations.SubtractWithBorrow := fun s x _ =>
  ⟨exists_writeResultAndFlag_next s x (sub_eq_ofNat_mod _ _) (flagOf_decide _),
    exists_writeResultAndFlag_next s x (sub_eq_ofNat_mod _ _) (flagOf_decide _)⟩

/-- Settles O41: the shift halves or doubles Vy, and the flag is the bit this loses. -/
theorem shiftsTakeVy : Obligations.ShiftsTakeVy := fun s x _ =>
  ⟨exists_writeResultAndFlag_next s x (ushiftRight_one_eq_ofNat _) (lowBitFlag_eq_ofNat _),
    exists_writeResultAndFlag_next s x (shiftLeft_one_eq_ofNat_mod _) (highBitFlag_eq_ofNat _)⟩

/-- Settles O37: both are one register write, and the byte sum is modulo 256. -/
theorem immediateLoadAndAdd : Obligations.ImmediateLoadAndAdd := by
  refine fun s x nn => ⟨exists_setReg_next s x nn, ?_⟩
  obtain ⟨t, hnext, hreg, hframe⟩ := exists_setReg_next s x (s.reg x + nn)
  exact ⟨t, hnext, by rw [hreg, BitVec.toNat_add], hframe⟩

/-- Settles O38: each of the four is one register write. -/
theorem assignAndBitwise : Obligations.AssignAndBitwise := fun s x _ =>
  ⟨exists_setReg_next s x _, exists_setReg_next s x _, exists_setReg_next s x _, exists_setReg_next s x _⟩

/-- Settles O42: the register holds the masked draw, so a bit outside the mask is 0. -/
theorem randomAndMasksOneDraw : Obligations.RandomAndMasksOneDraw := by
  intro s x nn
  have hexec : exec (.rnd x nn) s = .next (s.countDraw.setReg x (s.randomByte &&& nn)) := rfl
  have hreg : (s.countDraw.setReg x (s.randomByte &&& nn)).reg x = Config.randomByte s.draws &&& nn :=
    State.reg_setReg_self s.countDraw x _
  refine ⟨_, hexec, hreg, rfl, fun hnn => ?zero, fun b hb => ?bit, (exec_changes hexec).toFrame⟩
  case zero => rw [hreg, hnn]; exact BitVec.and_zero
  case bit => rw [hreg, BitVec.getLsbD_and, hb, Bool.and_false]

end Sys2Proof.Machine

/-! ## Index register and memory (43_index_memory.md)

The bounds check from either side, what a moved I leaves, the decimal digits as numbers, and the registers a load fills. -/

namespace Sys2Proof.Machine

/-- An access that ends inside memory passes its bounds check (43_index_memory.md R171). -/
theorem checkBounds_of_le {i : Instr} {count : Nat} {s next : State} (h : s.i.toNat + count ≤ 0x1000) :
    checkBounds i count s next = .next next := by
  rcases checkBounds_cases i count s next with ⟨-, hnext⟩ | ⟨-, hgt, -⟩
  · exact hnext
  · exact absurd h hgt.not_ge

/-- An access that ends past memory raises MemoryOutOfRange (43_index_memory.md R171, 60_exceptions.md R225). -/
theorem checkBounds_of_gt {i : Instr} {count : Nat} {s next : State} (hcount : count ≠ 0)
    (h : 0x1000 < s.i.toNat + count) :
    checkBounds i count s next = .fault (.memoryOutOfRange (encode i) (faultPc s) (max s.i.toNat 0x1000)) := by
  rcases checkBounds_cases i count s next with ⟨hle, -⟩ | ⟨-, -, hfault⟩
  · exact absurd (hle.resolve_left hcount) h.not_ge
  · exact hfault

/-- Moving I leaves memory (43_index_memory.md R175). -/
@[simp] theorem State.peek_advanceIndex (s : State) (x : Reg) (a : Nat) : (s.advanceIndex x).peek a = s.peek a := by
  rw [State.advanceIndex_eq]; rfl

/-- Moving I leaves the registers (43_index_memory.md R176). -/
@[simp] theorem State.reg_advanceIndex (s : State) (x y : Reg) : (s.advanceIndex x).reg y = s.reg y := by
  rw [State.advanceIndex_eq]; rfl

/-- A register load's byte k is V[k] (43_index_memory.md R176). -/
theorem State.reg_loadRegs_peekBytes (s : State) {a n : Nat} {k : Reg} (h : k.toNat < n) :
    (s.setRegs (loadRegs (s.peekBytes a n) 0 s.v)).reg k = s.peek (a + k.toNat) := by
  have hbyte : (s.peekBytes a n)[k.toNat]? = some (s.peek (a + k.toNat)) :=
    (Memory.getElem?_readBytes s.cfg.font s.mem a n k.toNat).trans (if_pos h)
  rw [State.reg, State.setRegs_v, getElem_loadRegs, if_pos (Nat.zero_le _), Nat.sub_zero, List.getD_eq_getElem?_getD, hbyte,
    Option.getD_some]

/-- A number up to a byte's value fits in a byte. -/
theorem toNat_ofNat_of_le {n : Nat} {b : Byte} (h : n ≤ b.toNat) : (BitVec.ofNat 8 n).toNat = n :=
  (BitVec.toNat_ofNat n 8).trans (Nat.mod_eq_of_lt (h.trans_lt b.isLt))

/-- The sixteen registers, as the claim about a register load lists them. -/
theorem mem_allRegs (x : Reg) : x ∈ ([0, 1, 2, 3, 4, 5, 6, 7, 8, 9, 10, 11, 12, 13, 14, 15] : List Reg) :=
  mem_opValues x

/-- Settles O44: whether the sum passes 0xFFF decides between the wrap with VF and the plain move of I. -/
theorem addToIndexWraps : Obligations.AddToIndexWraps := by
  intro s x _
  obtain ⟨t, ht⟩ : ∃ t, exec (.addI x) s = .next t := ⟨_, rfl⟩
  have hframe := (exec_changes ht).toFrame
  refine ⟨t, ht, ?_⟩
  rcases execAddI_next ht with ⟨hgt, rfl⟩ | ⟨hle, rfl⟩
  · simp only [effectsOf, hgt, if_true] at hframe
    refine ⟨fun _ => ⟨?_, State.reg_setReg_self _ _ _, hframe⟩, fun hle => absurd hgt hle.not_gt⟩
    rw [State.setReg_i, State.setIndex_i, BitVec.toNat_ofNat]
    omega
  · simp only [effectsOf, hle.not_gt, if_false] at hframe
    refine ⟨fun hgt => absurd hgt hle.not_gt, fun _ => ⟨?_, hframe⟩⟩
    rw [State.setIndex_i, BitVec.toNat_ofNat]
    omega

/-- Settles O45: each byte of the store reads back as its digit, and a digit fits in a byte. -/
theorem storeDigits : Obligations.StoreDigits := by
  refine fun s x => ⟨fun hm hfit => ?_, fun h => checkBounds_of_gt (by decide) (by omega)⟩
  have hexec : exec (.ldB x) s = .next (s.pokeBytes s.i.toNat (decimalDigits (s.reg x))) :=
    checkBounds_of_le (by omega)
  have hlen : s.i.toNat + (decimalDigits (s.reg x)).length ≤ 0x1000 := Nat.succ_le_succ hfit
  have hdigit {k n : Nat} (hk : (decimalDigits (s.reg x))[k]? = some (BitVec.ofNat 8 n)) (hn : n ≤ (s.reg x).toNat) :
      ((s.pokeBytes s.i.toNat (decimalDigits (s.reg x))).peek (s.i.toNat + k)).toNat = n := by
    rw [State.peek_pokeBytes_of_getElem? hm hlen hk, toNat_ofNat_of_le hn]
  exact ⟨_, hexec, hdigit (k := 0) rfl (by omega), hdigit rfl (by omega), hdigit rfl (by omega),
    (exec_changes hexec).toFrame⟩

/-- Settles O46: byte k of the stored block is V[k]; the move of I changes neither memory nor registers. -/
theorem registerDump : Obligations.RegisterDump := by
  refine fun s x => ⟨fun hm hfit => ?_, fun h => checkBounds_of_gt (Nat.succ_ne_zero _) (Nat.succ_le_succ h)⟩
  have hexec : exec (.ldMemVx x) s = .next ((s.pokeBytes s.i.toNat (blockValues s x)).advanceIndex x) :=
    checkBounds_of_le (Nat.succ_le_succ hfit)
  have hlen : s.i.toNat + (blockValues s x).length ≤ memSize := by
    rw [length_blockValues]; exact Nat.succ_le_succ hfit
  refine ⟨_, hexec, fun k hk => ?byte, State.advanceIndex_i (s := s.pokeBytes _ _) hfit,
    { (exec_changes hexec).toFrame with index := nofun }⟩
  case byte =>
    rw [State.peek_advanceIndex, State.peek_pokeBytes hm hlen, if_pos (Nat.le_add_right _ _), Nat.add_sub_cancel_left,
      getD_blockValues s x k hk]

/-- Settles O47: the load reaches exactly the registers up to x; the move of I changes none of them. -/
theorem registerLoad : Obligations.RegisterLoad := by
  refine fun s x => ⟨fun hfit => ?_, fun h => checkBounds_of_gt (Nat.succ_ne_zero _) (Nat.succ_le_succ h)⟩
  have hexec : exec (.ldVxMem x) s =
      .next ((s.setRegs (loadRegs (s.peekBytes s.i.toNat (blockLength x)) 0 s.v)).advanceIndex x) :=
    checkBounds_of_le (Nat.succ_le_succ hfit)
  have hframe := (exec_changes hexec).toFrame
  refine ⟨_, hexec, fun k hk => ?loaded, fun k hk => hframe.regs k ?above,
    State.advanceIndex_i (s := s.setRegs _) hfit,
    { hframe with regs := fun k hk => absurd (mem_allRegs k) hk, index := nofun }⟩
  case loaded => exact (State.reg_advanceIndex _ x k).trans (State.reg_loadRegs_peekBytes s (Nat.lt_succ_of_le hk))
  case above => simpa [effectsOf, BitVec.lt_def] using hk

/-- Settles O43: both are a write of I, with the operand's and the glyph address's value. -/
theorem setIndexAndFontAddress : Obligations.SetIndexAndFontAddress := fun s nnn x =>
  ⟨⟨_, rfl, toNat_addrOperand nnn, frame_setIndex s _⟩, ⟨_, rfl, toNat_glyphAddr (s.reg x), frame_setIndex s _⟩⟩

end Sys2Proof.Machine

/-! ## Display (44_display.md)

What a draw that answers leaves in the display and in VF, and the cell a given sprite bit lands on. -/

namespace Sys2Proof.Machine

/-- Every cell of the cleared buffer is false (44_display.md R190). -/
theorem getElem_clearedDisplay (r : Fin 32) (c : Fin 64) : clearedDisplay[r][c] = false := by
  simp [clearedDisplay]

/-- A draw that has no row or ends inside memory is executed (43_index_memory.md R171). -/
theorem exists_execDrw_next {s : State} (x y : Reg) {n : Nibble} (h : n ≠ 0 → s.i.toNat + n.toNat - 1 ≤ 0xFFF) :
    ∃ t, exec (.drw x y n) s = .next t := by
  rcases checkBounds_cases (.drw x y n) n.toNat s _ with ⟨-, hnext⟩ | ⟨hcount, hgt, -⟩
  · exact ⟨_, hnext⟩
  · have hn : n ≠ 0 := fun h0 => hcount (congrArg BitVec.toNat h0)
    have := h hn
    omega

/-- A draw XORs every cell with the sprite's bit on it (44_display.md R191). -/
theorem execDrw_disp {s t : State} {x y : Reg} {n : Nibble} (h : exec (.drw x y n) s = .next t) (r : Fin 32)
    (c : Fin 64) :
    t.disp[r][c] = (s.disp[r][c] ^^ spriteCovers s (s.reg x).toNat (s.reg y).toNat n.toNat r c) := by
  obtain ⟨-, rfl⟩ := checkBounds_next h
  rw [State.setDirty_disp, State.setCollision_eq, State.setRegs_disp, State.setDisplay_disp, drawSprite_disp]

/-- A draw sets `dirty` (40_execution_cycle.md R107). -/
theorem execDrw_dirty {s t : State} {x y : Reg} {n : Nibble} (h : exec (.drw x y n) s = .next t) : t.dirty = true := by
  obtain ⟨-, rfl⟩ := checkBounds_next h
  rfl

/-- VF after a draw is the draw's collision report, under DRAW_VF_NO_COLLISION (44_display.md R191). -/
theorem execDrw_flagReg {s t : State} {x y : Reg} {n : Nibble} (h : exec (.drw x y n) s = .next t) :
    t.reg flagReg =
      if (drawSprite s x y n).2 = true then 1 else if s.cfg.drawVfNoCollision = .zero then 0 else s.reg flagReg := by
  obtain ⟨-, rfl⟩ := checkBounds_next h
  rw [State.reg_of_v (State.setDirty_v _ _), State.reg_setCollision]
  cases (drawSprite s x y n).2 with
  | true => simp
  | false => simp [State.reg_of_v (State.setDisplay_v s _)]

/-- A draw that collides sets VF to 1 (44_display.md R191). -/
theorem execDrw_flagReg_of_collides {s t : State} {x y : Reg} {n : Nibble} (h : exec (.drw x y n) s = .next t)
    (hc : spriteCollides s (s.reg x).toNat (s.reg y).toNat n.toNat) : t.reg flagReg = 1 := by
  rw [execDrw_flagReg h, if_pos ((drawSprite_collided s x y n).2 hc)]

/-- A draw that does not collide leaves VF as DRAW_VF_NO_COLLISION says (44_display.md R191). -/
theorem execDrw_flagReg_of_not_collides {s t : State} {x y : Reg} {n : Nibble} (h : exec (.drw x y n) s = .next t)
    (hc : ¬ spriteCollides s (s.reg x).toNat (s.reg y).toNat n.toNat) :
    t.reg flagReg = if s.cfg.drawVfNoCollision = .zero then 0 else s.reg flagReg := by
  rw [execDrw_flagReg h, if_neg (mt (drawSprite_collided s x y n).1 hc)]

/-- A sprite's bits depend on memory, its reset contents and I alone (44_display.md R191). -/
theorem spriteCovers_of_mem {s u : State} (hm : u.mem = s.mem) (hc : u.cfg = s.cfg) (hi : u.i = s.i)
    (cx cy n : Nat) (r : Fin 32) (c : Fin 64) : spriteCovers u cx cy n r c = spriteCovers s cx cy n r c := by
  simp only [spriteCovers, hi, State.peek_of_mem hm hc]

/-- The sprite's bit on a cell, by the cell's offsets from the origin (44_display.md R191). -/
theorem spriteCovers_eq (s : State) (cx cy n : Nat) (r : Fin 32) (c : Fin 64) :
    spriteCovers s cx cy n r c = (decide (rowOffset cy r < n) && decide (colOffset cx c < 8) &&
      (s.peek (s.i.toNat + rowOffset cy r)).getLsbD (7 - colOffset cx c)) := rfl

/-- Sprite row `row` meets the display row at that offset (44_display.md R193). -/
theorem rowOffset_wrapRow_add {cy row : Nat} (h : row < 32) : rowOffset cy (wrapRow (cy + row)) = row := by
  simp only [rowOffset, wrapRow]
  omega

/-- Bit `b` of sprite row `row` is on the cell `row` below and `7 - b` right of the origin, wrapped (44_display.md R191,
R192). -/
theorem spriteCovers_wrap (s : State) (cx cy n : Nat) (row : Fin 16) (b : Fin 8) :
    spriteCovers s cx cy n (wrapRow (cy + row)) (wrapCol (cx + (7 - b))) =
      (decide (row < n) && (s.peek (s.i.toNat + row)).getLsbD b) := by
  have hrow : rowOffset cy (wrapRow (cy + row)) = row := rowOffset_wrapRow_add (by omega)
  have hcol : colOffset cx (wrapCol (cx + (7 - b))) = 7 - b := (eq_wrapCol_iff cx (7 - b) (by omega) _).1 rfl
  rw [spriteCovers_eq, hrow, hcol]
  have hlt : 7 - b.val < 8 := by omega
  have hbit : 7 - (7 - b.val) = b := by omega
  rw [decide_eq_true hlt, hbit, Bool.and_true]

/-- Settles O49: the bounds check decides between the draw and the fault. -/
theorem drawSpriteXorsCells : Obligations.DrawSpriteXorsCells := by
  refine fun s x y n => ⟨fun hfit => ?draws, fun hn hgt => ?faults⟩
  case draws =>
    obtain ⟨t, ht⟩ := exists_execDrw_next x y hfit
    exact ⟨t, ht, execDrw_disp ht, execDrw_flagReg_of_collides ht, execDrw_flagReg_of_not_collides ht, execDrw_dirty ht,
      (exec_changes ht).toFrame⟩
  case faults => exact checkBounds_of_gt (fun h0 => hn (BitVec.eq_of_toNat_eq h0)) (by omega)

/-- Settles O50: both draws XOR the same bits, and the first one sets the cell that makes the second collide. -/
theorem drawTwiceRestoresDisplay : Obligations.DrawTwiceRestoresDisplay := by
  intro s t u w x y n ht hdisp hmem hcfg hi hx hy hw
  have hcovers := spriteCovers_of_mem hmem hcfg hi (s.reg x).toNat (s.reg y).toNat n.toNat
  have hfirst (r : Fin 32) (c : Fin 64) :
      u.disp[r][c] = (s.disp[r][c] ^^ spriteCovers s (s.reg x).toNat (s.reg y).toNat n.toNat r c) := by
    rw [hdisp, execDrw_disp ht]
  refine ⟨?restored, ?collides⟩
  case restored =>
    have hcell (r : Fin 32) (c : Fin 64) : w.disp[r][c] = s.disp[r][c] := by
      rw [execDrw_disp hw, hx, hy, hcovers, hfirst, Bool.xor_assoc, Bool.xor_self, Bool.xor_false]
    exact Vector.ext fun r hr => Vector.ext fun c hc => hcell ⟨r, hr⟩ ⟨c, hc⟩
  case collides =>
    rintro hclear ⟨row, b, hrow, hbit⟩
    have hcov := spriteCovers_wrap s (s.reg x).toNat (s.reg y).toNat n.toNat row b
    rw [decide_eq_true hrow, hbit, Bool.true_and] at hcov
    refine execDrw_flagReg_of_collides hw ⟨_, _, ?set, by rw [hx, hy, hcovers, hcov]⟩
    case set => rw [hfirst, hclear _ _ hcov, hcov, Bool.false_xor]

/-- Settles O48: the buffer is replaced by the cleared one. -/
theorem clearDisplay : Obligations.ClearDisplay := fun s =>
  have hexec : exec .cls s = .next ((s.setDisplay clearedDisplay).setDirty s.cfg.clearSetsDirty) := rfl
  ⟨_, hexec, getElem_clearedDisplay, rfl, (exec_changes hexec).toFrame⟩

end Sys2Proof.Machine

/-! ## Keys and timers (45_timers_input.md)

The key wait's two answers, the host's two key operations, and the two answers of a key skip. -/

namespace Sys2Proof.Machine

/-- A key as a register value is its number (45_timers_input.md R205). -/
theorem toNat_keyByte (k : Fin 16) : (keyByte k).toNat = k.val := by
  have hk := k.isLt
  rw [keyByte, BitVec.toNat_ofNat]
  omega

/-- A key wait with a released key stores it (45_timers_input.md R205). -/
theorem execLdVxK_of_lrk_some {s : State} {k : Fin 16} (x : Reg) (h : s.lrk = some k) :
    execLdVxK x s = .next (s.setReg x (keyByte k)) := by
  simp only [execLdVxK, h]

/-- A key wait without one takes PC back (45_timers_input.md R205). -/
theorem execLdVxK_of_lrk_none {s : State} (x : Reg) (h : s.lrk = none) : execLdVxK x s = .next s.rewind := by
  simp only [execLdVxK, h]

/-- `press` of a key sets its state (45_timers_input.md R206). -/
theorem press_of_lt {key : Nat} (s : State) (h : key < 16) :
    press key s = .next { s with keys := s.keys.set key true h } := dif_pos h

/-- `release` of a key clears its state and records it (45_timers_input.md R207). -/
theorem release_of_lt {key : Nat} (s : State) (h : key < 16) :
    release key s = .next { s with keys := s.keys.set key false h, lrk := some ⟨key, h⟩ } := dif_pos h

/-- A set of one key's state leaves every other key's (45_timers_input.md R206, R207). -/
theorem getElem_set_key_of_ne (keys : Vector Bool 16) {key : Nat} (h : key < 16) (b : Bool) (k : Fin 16)
    (hne : k.val ≠ key) : (keys.set key b h)[k] = keys[k] :=
  Vector.getElem_set_ne h k.isLt hne.symm

/-- A key skip on a key moves PC by 2 exactly when the key is in the wanted state, and changes nothing else
(45_timers_input.md R200, R201). -/
theorem exists_skipIfKey_next (i : Instr) {x : Reg} (pressed : Bool) {s : State} (h : (s.reg x).toNat < 16) :
    ∃ t, skipIfKey i x pressed s = .next t ∧
      t.pc = (if s.keys[(s.reg x).toNat] = pressed then s.pc + 2 else s.pc) ∧ Frame { pc := true } s t := by
  rcases skipIfKey_cases i x pressed s with ⟨_, hnext⟩ | ⟨hgt, -⟩
  · refine ⟨_, hnext, by rw [apply_ite State.pc, State.skip_pc], ?_⟩
    split
    · exact frame_setPc s _
    · exact frame_refl s _
  · omega

/-- A key skip on a value above 15 raises KeyOutOfRange (60_exceptions.md R226). -/
theorem skipIfKey_of_gt (i : Instr) {x : Reg} (pressed : Bool) {s : State} (h : (s.reg x).toNat > 15) :
    skipIfKey i x pressed s = .fault (.keyOutOfRange (encode i) (faultPc s) (s.reg x)) := by
  rcases skipIfKey_cases i x pressed s with ⟨hlt, -⟩ | ⟨-, hfault⟩
  · omega
  · exact hfault

/-- A running core that waits for a key steps to the same place, and waits again (45_timers_input.md R205,
70_reset_and_hazards.md R259). -/
theorem step_keyWait {s : State} {w : Word} {x : Reg} (hrun : s.status = .running) (hf : fetch s = some w)
    (hd : decode w = some (.ldVxK x)) (hlrk : s.lrk = none) : ∃ t, step s = .next t ∧ SamePlace s t ∧ t.lrk = none := by
  have hexec : exec (.ldVxK x) (enterExecute (tick s)) = .next (enterExecute (tick s)).rewind :=
    execLdVxK_of_lrk_none x (by simpa using hlrk)
  have hsame : SamePlace s (cleanup (enterExecute (tick s)).rewind) := by constructor <;> simp
  exact ⟨_, by rw [step_of_decode hrun hf hd, hexec, endStep], hsame, State.cleanup_lrk _⟩

/-- A running core at a key wait steps past it once a key is released, with the key in V[x] (45_timers_input.md R205,
40_execution_cycle.md R108). -/
theorem step_keyReleased {s : State} {w : Word} {x : Reg} {key : Fin 16} (hrun : s.status = .running)
    (hf : fetch s = some w) (hd : decode w = some (.ldVxK x)) (hlrk : s.lrk = some key) :
    ∃ t, step s = .next t ∧ (t.reg x).toNat = key.val ∧ t.pc = s.pc + 2 ∧ t.lrk = none := by
  have hexec : exec (.ldVxK x) (enterExecute (tick s)) = .next ((enterExecute (tick s)).setReg x (keyByte key)) :=
    execLdVxK_of_lrk_some x (by simpa using hlrk)
  refine ⟨_, by rw [step_of_decode hrun hf hd, hexec, endStep], ?_, by simp, State.cleanup_lrk _⟩
  rw [State.reg_of_v (State.cleanup_v _), State.reg_setReg_self, toNat_keyByte]

/-- Settles O54: every step of the wait ends at its place with no key released, and a release there leaves the same word to
fetch. -/
theorem keyWaitHoldsUntilRelease : Obligations.KeyWaitHoldsUntilRelease := by
  intro s x k hrun hlrk hpc hd
  have hf := fetch_of_le hpc
  have hstep : ∀ t, SamePlace s t ∧ t.lrk = none → ∃ u, step t = .next u ∧ SamePlace s u ∧ u.lrk = none :=
    fun t ⟨ht, htlrk⟩ =>
      have ⟨u, hu, hsame, hulrk⟩ := step_keyWait (ht.status.trans hrun) (ht.fetch_eq.trans hf) hd htlrk
      ⟨u, hu, ht.trans hsame, hulrk⟩
  obtain ⟨hsafe, hplace⟩ := safeRun_of_invariant hstep k ⟨SamePlace.refl s, hlrk⟩
  refine ⟨hsafe, fun t hrunt => ?_⟩
  obtain ⟨ht, -⟩ := hplace t hrunt
  refine ⟨ht.pc, ht.v, ht.mem, fun key => ?_⟩
  have hu : SamePlace s { t with keys := t.keys.set key.val false key.isLt, lrk := some key } :=
    ht.trans ⟨rfl, rfl, rfl, rfl, rfl, rfl⟩
  obtain ⟨w, hw, hreg, hwpc, hwlrk⟩ := step_keyReleased (hu.status.trans hrun) (hu.fetch_eq.trans hf) hd rfl
  exact ⟨_, w, release_of_lt t key.isLt, hw, hreg, by rw [hwpc, hu.pc], hwlrk⟩

/-- Settles O29: each operation on a key is one set of that key's state, and release also sets LRK. -/
theorem hostKeyOperations : Obligations.HostKeyOperations := by
  refine fun s key => ⟨fun h => ⟨?press, ?release⟩, fun h => ⟨dif_neg h.not_gt, dif_neg h.not_gt⟩⟩
  case press => exact ⟨_, press_of_lt s h, Vector.getElem_set_self h, getElem_set_key_of_ne s.keys h true, rfl⟩
  case release => exact ⟨_, release_of_lt s h, Vector.getElem_set_self h, getElem_set_key_of_ne s.keys h false, rfl, rfl⟩

/-- Settles O51: both are the key skip, with opposite wanted states. -/
theorem keySkips : Obligations.KeySkips := fun _ x =>
  ⟨fun h => ⟨exists_skipIfKey_next (.skp x) true h, exists_skipIfKey_next (.sknp x) false h⟩,
    fun h => ⟨skipIfKey_of_gt (.skp x) true h, skipIfKey_of_gt (.sknp x) false h⟩⟩

/-- Settles O52: each is one write, of the register or of the named timer. -/
theorem timerTransfers : Obligations.TimerTransfers := fun s x =>
  ⟨exists_setReg_next s x s.dt, ⟨_, rfl, rfl, frame_setDelay s _⟩, ⟨_, rfl, rfl, rfl, frame_setSound s _⟩⟩

/-- Settles O53: whether LRK holds a key decides between the store and the wait. -/
theorem blockForKeyRelease : Obligations.BlockForKeyRelease := by
  refine fun s x => ⟨fun k hk => ?stores, fun hnone => ?waits⟩
  case stores =>
    exact ⟨_, execLdVxK_of_lrk_some x hk, by rw [State.reg_setReg_self, toNat_keyByte], frame_setReg s x _⟩
  case waits => exact ⟨_, execLdVxK_of_lrk_none x hnone, rfl, frame_setPc s _⟩

end Sys2Proof.Machine

/-! ## Faults and the host interface (60_exceptions.md)

What an instruction's own check decides, the word and pc of every fault, and what the host is answered. -/

namespace Sys2Proof.Machine

/-- Settles O16: each record is of one constructor, whose parts are listed in its definition. -/
theorem faultRecordParts : Obligations.FaultRecordParts := by
  intro w pc addr value parts
  exact ⟨rfl, rfl, rfl, rfl, rfl, rfl, rfl⟩

/-- The answer `a` is the fault `f` of a failed check, or a next state where there is none (60_exceptions.md R228). -/
def AnswersCheck (f : Option Fault) (a : Answer) : Prop :=
  (∀ record, f = some record → a = .fault record) ∧ (f = none → ∃ t, a = .next t)

theorem AnswersCheck.of_next {f : Option Fault} {a : Answer} {t : State} (hf : f = none) (ha : a = .next t) :
    AnswersCheck f a :=
  ⟨fun _ h => (nomatch hf.symm.trans h), fun _ => ⟨t, ha⟩⟩

theorem AnswersCheck.of_fault {f : Option Fault} {a : Answer} {record : Fault} (hf : f = some record)
    (ha : a = .fault record) : AnswersCheck f a :=
  ⟨fun _ h => Option.some.inj (hf.symm.trans h) ▸ ha, fun h => (nomatch hf.symm.trans h)⟩

/-- A fault answered is that of the check. -/
theorem AnswersCheck.eq_some {f : Option Fault} {a : Answer} {record : Fault} (h : AnswersCheck f a)
    (ha : a = .fault record) : f = some record := by
  obtain ⟨hfault, hnext⟩ := h
  cases f with
  | none => obtain ⟨t, ht⟩ := hnext rfl; cases ha.symm.trans ht
  | some r => cases ha.symm.trans (hfault r rfl); rfl

/-- A return's own check is for an empty stack (60_exceptions.md R221). -/
theorem execRet_answersCheck (s : State) : AnswersCheck (ownCheckFault .ret s) (execRet s) := by
  rcases List.eq_nil_or_concat' s.stack with hnil | ⟨l, a, hl⟩
  · exact .of_fault (if_pos hnil) (execRet_of_stack_nil hnil)
  · exact .of_next (if_neg (by simp [hl])) (execRet_of_stack_concat hl)

/-- A call's own check is for a full stack (60_exceptions.md R222). -/
theorem execCall_answersCheck (nnn : Addr) (s : State) : AnswersCheck (ownCheckFault (.call nnn) s) (execCall nnn s) := by
  cases hfull : s.stackFull with
  | true => exact .of_fault (if_pos hfull) (execCall_of_stackFull nnn hfull)
  | false => exact .of_next (if_neg (Bool.eq_false_iff.1 hfull)) (execCall_of_not_stackFull nnn hfull)

/-- A key skip's own check is for a value that names no key (60_exceptions.md R226). -/
theorem skipIfKey_answersCheck (i : Instr) (x : Reg) (pressed : Bool) (s : State) :
    AnswersCheck (if (s.reg x).toNat > 15 then some (.keyOutOfRange (encode i) (faultPc s) (s.reg x)) else none)
      (skipIfKey i x pressed s) := by
  rcases skipIfKey_cases i x pressed s with ⟨hlt, hnext⟩ | ⟨hgt, hfault⟩
  · exact .of_next (if_neg (by omega)) hnext
  · exact .of_fault (if_pos hgt) hfault

/-- The bounds check of an access of `count` bytes from I (60_exceptions.md R225). -/
theorem checkBounds_answersCheck (i : Instr) (count : Nat) (s next : State) :
    AnswersCheck
      (if count ≠ 0 ∧ s.i.toNat + count > 0x1000 then
        some (.memoryOutOfRange (encode i) (faultPc s) (max s.i.toNat 0x1000)) else none)
      (checkBounds i count s next) := by
  rcases checkBounds_cases i count s next with ⟨hle, hnext⟩ | ⟨hcount, hgt, hfault⟩
  · exact .of_next (if_neg (by omega)) hnext
  · exact .of_fault (if_pos ⟨hcount, hgt⟩) hfault

/-- A key wait stores or waits; it has no check (45_timers_input.md R205). -/
theorem exists_execLdVxK_next (x : Reg) (s : State) : ∃ t, execLdVxK x s = .next t := by
  cases hlrk : s.lrk with
  | some k => exact ⟨_, execLdVxK_of_lrk_some x hlrk⟩
  | none => exact ⟨_, execLdVxK_of_lrk_none x hlrk⟩

/-- Every instruction answers as its own check decides; one that accesses no bytes from I has none but those of the stack
and the keys (60_exceptions.md R228, R232). -/
theorem exec_answersCheck (i : Instr) (s : State) : AnswersCheck (ownCheckFault i s) (exec i s) := by
  cases i
  case ret => exact execRet_answersCheck s
  case call nnn => exact execCall_answersCheck nnn s
  case skp x => exact skipIfKey_answersCheck (.skp x) x true s
  case sknp x => exact skipIfKey_answersCheck (.sknp x) x false s
  case drw x y n => exact checkBounds_answersCheck (.drw x y n) n.toNat s _
  case ldB x => exact checkBounds_answersCheck (.ldB x) 3 s _
  case ldMemVx x => exact checkBounds_answersCheck (.ldMemVx x) (blockLength x) s _
  case ldVxMem x => exact checkBounds_answersCheck (.ldVxMem x) (blockLength x) s _
  case ldVxK x =>
    obtain ⟨t, ht⟩ := exists_execLdVxK_next x s
    exact .of_next rfl ht
  all_goals exact .of_next rfl rfl

/-- Settles O21: every instruction answers as its own check decides. -/
theorem ownCheckAloneDecidesFault : Obligations.OwnCheckAloneDecidesFault := exec_answersCheck

/-! ### The word and the address of a fault (60_exceptions.md R220, R227) -/

/-- An instruction's own check names the instruction's word and the reported pc (60_exceptions.md R227). -/
theorem ownCheckFault_word_pc {i : Instr} {s : State} {record : Fault} (h : ownCheckFault i s = some record) :
    record.word = some (encode i) ∧ record.pc = faultPc s := by
  unfold ownCheckFault at h
  split at h <;> split at h <;> cases h <;> exact ⟨rfl, rfl⟩

/-- The pc reported in the execute phase is the fetched instruction's address, or the next one (60_exceptions.md R227). -/
theorem faultPc_enterExecute_tick (s : State) :
    faultPc (enterExecute (tick s)) = if s.cfg.faultPcReport = .instrAddr then s.pc else s.pc + 2 := by
  simp [faultPc]

/-- A running core with no word at PC raises FetchOutOfRange (60_exceptions.md R223). -/
theorem step_of_fetch_none {s : State} (hrun : s.status = .running) (hf : fetch s = none) :
    step s = .fault (.fetchOutOfRange s.pc) := by
  simp [step, hrun, hf]

/-- A running core whose word does not decode raises Unimplemented (60_exceptions.md R224). -/
theorem step_of_decode_none {s : State} {w : Word} (hrun : s.status = .running) (hf : fetch s = some w)
    (hd : decode w = none) : step s = .fault (.unimplemented w (faultPc (enterExecute (tick s)))) := by
  simp [step, hrun, hf, hd, reportPc_eq_faultPc]

/-- A faulting step either had no word to fetch, or its record names the fetched word and where it stood: what decode
raises holds the word itself, what an instruction raises its encoding (60_exceptions.md R227). -/
theorem step_fault_word_pc {s : State} {record : Fault} (h : step s = .fault record) :
    (fetch s = none ∧ record = .fetchOutOfRange s.pc) ∨
    ∃ w, fetch s = some w ∧ record.word = some w ∧ record.pc = faultPc (enterExecute (tick s)) := by
  obtain ⟨-, hfetch | ⟨w, hf, -, rfl⟩ | ⟨w, i, hf, hd, he⟩⟩ := step_fault_cases h
  · exact .inl hfetch
  · exact .inr ⟨w, hf, rfl, reportPc_eq_faultPc _⟩
  · obtain ⟨hword, hpc⟩ := ownCheckFault_word_pc ((exec_answersCheck i _).eq_some he)
    exact .inr ⟨w, hf, by rw [hword, encode_of_decode hd], hpc⟩

/-- Settles O13: every other fault has a word. -/
theorem fetchFaultsExactlyOutOfRange : Obligations.FetchFaultsExactlyOutOfRange := by
  refine ⟨fun s pc hrun => ⟨fun h => ?only, ?faults⟩, fun _ => ⟨rfl, rfl, rfl⟩⟩
  case only =>
    rcases step_fault_word_pc h with ⟨hf, hrecord⟩ | ⟨w, -, hword, -⟩
    · exact ⟨fetch_eq_none.1 hf, Fault.fetchOutOfRange.inj hrecord⟩
    · cases hword
  case faults => rintro ⟨hpc, rfl⟩; exact step_of_fetch_none hrun (fetch_eq_none.2 hpc)

/-- A word that no row of the map holds of is unimplemented (30_encoding.md R94). -/
theorem decode_eq_none_of_forall_not_holds {w : Word} (h : ∀ r ∈ opcodeTable, r.holds w = false) : decode w = none :=
  (decodeFollowsOpcodeMap w).2.2 (List.any_eq_false.2 fun r hr => Bool.eq_false_iff.1 (h r hr))

/-- Settles O14: such a word is fetched but does not decode. -/
theorem unmatchedWordFaults : Obligations.UnmatchedWordFaults := fun s hrun hpc hrows =>
  ⟨_, step_of_decode_none hrun (fetch_of_le hpc) (decode_eq_none_of_forall_not_holds hrows), rfl, rfl,
    faultPc_enterExecute_tick s⟩

/-- Settles O15: a record without a word is that of the fetch, and every other names the fetched word. -/
theorem faultsNameWordAndAddress : Obligations.FaultsNameWordAndAddress := by
  intro s record h
  rcases step_fault_word_pc h with ⟨-, rfl⟩ | ⟨w, hf, hword, hpc⟩
  · exact ⟨fun _ => rfl, nofun⟩
  · refine ⟨fun hnone => (nomatch hword.symm.trans hnone), fun w' hw' => ?_⟩
    obtain rfl : w = w' := Option.some.inj (hword.symm.trans hw')
    exact ⟨(fetch_eq_some.1 hf).2, hpc.trans (faultPc_enterExecute_tick s)⟩

/-! ### What the host is answered (60_exceptions.md R235, R236) -/

/-- A faulting step gives the host its record, and leaves the status faulted with it (60_exceptions.md R220). -/
theorem hostStep_of_fault {s : State} {record : Fault} (h : step s = .fault record) :
    hostStep s = (.fault record, { freeRecord s with status := .faulted record }) := by
  simp only [hostStep, h]

/-- A step that does not fault gives the host its `dirty` (40_execution_cycle.md R109). -/
theorem hostStep_of_next {s t : State} (h : step s = .next t) : hostStep s = (.ok t.dirty, t) := by
  simp only [hostStep, h]

/-- A faulted core gives the host no step, and stays as it is (40_execution_cycle.md R110). -/
theorem hostStep_of_faulted {s : State} {record : Fault} (h : s.status = .faulted record) :
    hostStep s = (.noStep (.coreFaulted record), s) := by
  simp only [hostStep, faultedCoreHasNoStep s record h]

/-- Settles O18: the core a fault leaves is faulted, so it has no step, and an instruction leaves the core running. -/
theorem hostSeesOutcomeAndFaultIsTerminal : Obligations.HostSeesOutcomeAndFaultIsTerminal := by
  refine ⟨fun s record h => ?fault, fun s t h => ⟨hostStep_of_next h, step_status h⟩⟩
  case fault =>
    have hstatus : (hostStep s).2.status = .faulted record := by rw [hostStep_of_fault h]
    exact ⟨by rw [hostStep_of_fault h], hstatus, hostStep_of_faulted hstatus⟩

/-- The display read port is the rows one after the other (60_exceptions.md R236). -/
theorem readDisplay_eq_toList_flatten (s : State) : readDisplay s = s.disp.flatten.toList := by
  simp only [readDisplay, Vector.flatten, Vector.toList, Array.toList_flatten, Array.toList_map, List.map_map]
  rfl

/-- Settles O30: position `r * 64 + c` of the rows one after the other lies in row `r`, at column `c`. -/
theorem hostReadPorts : Obligations.HostReadPorts := by
  intro s
  rw [readDisplay_eq_toList_flatten]
  refine ⟨Vector.length_toList, fun r c => ?cell, decide_eq_true_iff⟩
  case cell =>
    have hlt : r.val * 64 + c.val < 32 * 64 := by omega
    have hrow : (r.val * 64 + c.val) / 64 = r.val := by omega
    have hcol : (r.val * 64 + c.val) % 64 = c.val := by omega
    rw [Vector.getElem?_toList, Vector.getElem?_flatten, dif_pos hlt]
    simp [hrow, hcol]

end Sys2Proof.Machine

/-! ## Construction (70_reset_and_hazards.md)

The reset contents of memory, the state construction leaves, and the first step of an instance without a program. -/

namespace Sys2Proof.Machine

/-- The reset contents of memory, byte by byte: the font in [0x050, 0x0A0), zero elsewhere (20_memory.md R57). -/
theorem Memory.unlisted_eq (font : Font) (a : Nat) :
    unlisted font a = if 0x050 ≤ a ∧ a < 0x0A0 then font.toList.getD (a - 0x050) 0 else 0 := by
  by_cases h : 0x050 ≤ a ∧ a < 0x0A0
  · have hglyph : unlisted font a = font[a - 0x050] := dif_pos h
    rw [hglyph, if_pos h, List.getD_eq_getElem _ _ (by rw [Vector.length_toList]; omega), Vector.getElem_toList]
  · rw [if_neg h]
    exact dif_neg h

/-- Before a program is loaded, memory holds its reset contents (70_reset_and_hazards.md R250). -/
theorem State.peek_initial (cfg : Config) (a : Nat) :
    (State.initial cfg).peek a = if 0x050 ≤ a ∧ a < 0x0A0 then cfg.font.toList.getD (a - 0x050) 0 else 0 :=
  Memory.unlisted_eq cfg.font a

/-- Where a program goes, memory is zero before it is loaded (70_reset_and_hazards.md R250). -/
theorem State.peek_initial_of_progBase_le (cfg : Config) {a : Nat} (h : 0x200 ≤ a) : (State.initial cfg).peek a = 0 := by
  rw [State.peek_initial, if_neg (by omega)]

/-- V0 to VF are zero in the initial state (70_reset_and_hazards.md R250). -/
theorem State.initial_reg (cfg : Config) (x : Reg) : (State.initial cfg).reg x = 0 := Vector.getElem_replicate _

/-- No key is pressed in the initial state (70_reset_and_hazards.md R250). -/
theorem State.initial_key (cfg : Config) (k : Fin 16) : (State.initial cfg).keys[k] = false :=
  Vector.getElem_replicate _

/-- The display is clear in the initial state (70_reset_and_hazards.md R250). -/
theorem State.initial_cell (cfg : Config) (r : Fin 32) (c : Fin 64) : (State.initial cfg).disp[r][c] = false := by
  simp [State.initial]

/-- A program above PROG_MAX bytes is the load error (70_reset_and_hazards.md R251). -/
theorem construct_of_gt (cfg : Config) {program : List Byte} (h : program.length > progMax) :
    construct cfg program = .error (.programTooLarge program.length) :=
  if_pos h

/-- Any other program is stored from PROG_BASE in the initial state (70_reset_and_hazards.md R250). -/
theorem construct_of_le (cfg : Config) {program : List Byte} (h : program.length ≤ progMax) :
    construct cfg program = .ok ((State.initial cfg).pokeBytes progBase program) :=
  if_neg h.not_gt

/-- A loaded program reads back from PROG_BASE, zero follows it, and below it are the reset contents
(70_reset_and_hazards.md R250). -/
theorem peek_initial_pokeBytes_program (cfg : Config) {program : List Byte} (h : program.length ≤ progMax) (a : Nat) :
    ((State.initial cfg).pokeBytes progBase program).peek a =
      if 0x200 ≤ a then program.getD (a - 0x200) 0
      else if 0x050 ≤ a ∧ a < 0x0A0 then cfg.font.toList.getD (a - 0x050) 0 else 0 := by
  rw [State.peek_pokeBytes (inv_initial cfg).memory (Nat.add_le_add_left h _)]
  by_cases ha : 0x200 ≤ a
  · rw [if_pos ha, if_pos ha, State.peek_initial_of_progBase_le cfg ha]
  · rw [if_neg ha, if_neg ha, State.peek_initial]

/-- Settles O27: the load of the program changes memory alone, and every other part is the initial state's. -/
theorem constructionSetsResetState : Obligations.ConstructionSetsResetState := by
  refine fun cfg program => ⟨construct_of_gt cfg, fun hlen => ⟨_, construct_of_le cfg hlen, ?memory, ?others⟩⟩
  case memory => exact fun a _ => peek_initial_pokeBytes_program cfg hlen a
  case others =>
    exact ⟨State.initial_reg cfg, rfl, rfl, rfl, rfl, rfl, rfl, State.initial_key cfg, rfl, State.initial_cell cfg, rfl, rfl⟩

/-- Without a program, the word at PROG_BASE is 0x0000 (70_reset_and_hazards.md R250). -/
theorem fetch_initial (cfg : Config) : fetch (State.initial cfg) = some 0x0000 := by
  have hpc : (State.initial cfg).pc.toNat = 0x200 := rfl
  have hzero : ∀ a, 0x200 ≤ a → (State.initial cfg).peek a = 0 := fun _ => State.peek_initial_of_progBase_le cfg
  refine fetch_eq_some.2 ⟨by omega, ?_⟩
  rw [hzero _ hpc.ge, hzero _ (by omega)]
  rfl

/-- An instance without a program faults at its first step, on the word 0x0000 (60_exceptions.md R224). -/
theorem step_initial (cfg : Config) :
    step (State.initial cfg) = .fault (.unimplemented 0x0000 (if cfg.faultPcReport = .instrAddr then 0x200 else 0x202)) := by
  rw [step_of_decode_none rfl (fetch_initial cfg) (by decide), faultPc_enterExecute_tick]
  rfl

/-- Settles O28: State.reset is the initial state under the default configuration, and no byte is stored. -/
theorem resetIsEmptyConstruction : Obligations.ResetIsEmptyConstruction :=
  ⟨construct_of_le Config.default (Nat.zero_le _), step_initial Config.default⟩

end Sys2Proof.Machine
